-- ==== Sys2Proof/Word.lean ====
section
/-! DEFINITION. The bit-vector types of the block: bytes, the 16-bit CRC register and the 32-bit
frequency (00_scope.md R5, R8). -/

namespace Sys2Proof

/-- A byte, 0..255 (00_scope.md R8). -/
abbrev Byte := BitVec 8

/-- The 16-bit CRC register and checksum (10_state.md R11). -/
abbrev Word := BitVec 16

/-- An unsigned 32-bit number of hertz (43_command_frames.md R162). -/
abbrev Hz := BitVec 32

end Sys2Proof
end

