-- ==== Sys2Proof/Config.lean ====
section
/-! DEFINITION. The configuration record of 00_scope.md R6: what is fixed before a run and never
written during it (20_memory.md R55), the mode names of 43_command_frames.md R167, and the values this
hardware has. Parameters the spec calls OPEN are constants without a body: no proof can learn a value. -/

namespace Sys2Proof

/-- The closed enumeration of modes (43_command_frames.md R167), in the source's listing order. -/
inductive Mode where
  | usb | lsb | cwr | cwl | am | wfm | nfm | digi | pkt
  deriving DecidableEq, Repr

/-- The configuration record (00_scope.md R6). -/
structure Config where
  /-- `CRC_REFLECT`: true is 1 (least significant bit first), false is 0. -/
  crcReflect : Bool
  /-- `MODE_ID` as a list: the mode at index `k` has identifier `k` (43_command_frames.md R167). -/
  modes : List Mode
  /-- `RX_WINDOW`: how many bytes the channel reads at most after a status query. -/
  rxWindow : Nat
  /-- `RX_TIMEOUT`: belongs to the serial channel, has no unit and no rule of the block reads it
  (60_exceptions.md R202); kept because R6 puts it in the record. -/
  rxTimeout : Nat
  /-- `STATUS_MODE_OFFSET`: index of the mode identifier in the status reply payload. -/
  statusModeOffset : Nat
  /-- `STATUS_FREQ_OFFSET`: index of the first frequency byte in the status reply payload. -/
  statusFreqOffset : Nat
  /-- `STATUS_FREQ_WIDTH`: number of frequency bytes, big-endian. -/
  statusFreqWidth : Nat
  /-- `STATUS_WIDTH_TEXT`: the text printed after the mode name, as ASCII bytes. -/
  statusWidthText : List Byte
  deriving DecidableEq, Repr

/-- `RX_WINDOW` is OPEN (00_scope.md R6, 92_eei_decisions.md D24). -/
opaque Config.openRxWindow : Nat

/-- `RX_TIMEOUT` is OPEN (00_scope.md R6, 92_eei_decisions.md D19). -/
opaque Config.openRxTimeout : Nat

/-- `STATUS_MODE_OFFSET` is OPEN (00_scope.md R6, 92_eei_decisions.md D16). -/
opaque Config.openStatusModeOffset : Nat

/-- `STATUS_FREQ_OFFSET` is OPEN (00_scope.md R6, 92_eei_decisions.md D16). -/
opaque Config.openStatusFreqOffset : Nat

/-- `STATUS_WIDTH_TEXT` is OPEN (00_scope.md R6, 92_eei_decisions.md D16). -/
opaque Config.openStatusWidthText : List Byte

/-- The default `MODE_ID`: the listing order of the source (43_command_frames.md R167; the binding of
identifiers 1 to 8 is UNVERIFIED, log 17). -/
def Mode.listing : List Mode := [.usb, .lsb, .cwr, .cwl, .am, .wfm, .nfm, .digi, .pkt]

/-- This hardware's configuration: the defaults of 00_scope.md R6 (UNVERIFIED against a device,
log 16, log 17) and the OPEN parameters, left without a value. -/
def Config.hw : Config where
  crcReflect := true
  modes := Mode.listing
  rxWindow := Config.openRxWindow
  rxTimeout := Config.openRxTimeout
  statusModeOffset := Config.openStatusModeOffset
  statusFreqOffset := Config.openStatusFreqOffset
  statusFreqWidth := 4
  statusWidthText := Config.openStatusWidthText

end Sys2Proof
end

