-- ==== Sys2Proof/Syntax.lean ====
section
/-! DEFINITION. The instructions: the frame mnemonics of 30_encoding.md R76 and the unit operations of
R75, one constructor per row of opcode_table.json, in the table's order. -/

namespace Sys2Proof

/-- One constructor per row of the opcode table. -/
inductive Instr where
  /-- `FRAME cmd, [payload]`: `encode(cmd, payload)` (30_encoding.md R76, R77; 41_frame_encoder.md R110). -/
  | frame (cmd : Byte) (payload : List Byte)
  /-- `TXCTL on` / `TXCTL off` (43_command_frames.md R161). -/
  | txctl (on : Bool)
  /-- `FREQ hz` (R162). -/
  | freq (hz : Hz)
  /-- `MODE id` (R163); the identifier is a byte, in the domain when it is at most 8. -/
  | mode (id : Byte)
  /-- `STATUS` (R164). -/
  | status
  /-- `RESET` (70_reset_and_hazards.md R220). -/
  | reset
  /-- `CRC.INIT` (40_crc_generator.md R96). -/
  | crcInit
  /-- `CRC.BIT d` (R97). -/
  | crcBit (d : Bool)
  /-- `CRC.BYTE b` (R98). -/
  | crcByte (b : Byte)
  /-- `CRC.READ` (R99). -/
  | crcRead
  /-- `ENC.START command, payload` (41_frame_encoder.md R111); the payload may have any length. -/
  | encStart (cmd : Byte) (payload : List Byte)
  /-- `ENC.STEP` (R112). -/
  | encStep
  /-- `ENC.STATUS` (R119). -/
  | encStatus
  /-- `DEC.START` (42_frame_decoder.md R131). -/
  | decStart
  /-- `DEC.PUSH b` (R132). -/
  | decPush (b : Byte)
  /-- `DEC.END` (R133). -/
  | decEnd
  /-- `DEC.RESULT` (R134). -/
  | decResult
  deriving DecidableEq, Repr

end Sys2Proof
end

