-- ==== Sys2Proof/Machine/State.lean ====
section
/-! DEFINITION. The state of the block as plain data (10_state.md R10 to R19, R30 to R35), the answers of
its operations (30_encoding.md R75), the host interface (70_reset_and_hazards.md R232), the stop reasons and
the state after power-on. -/

namespace Sys2Proof.Machine

/-- The causes of `MalformedFrame` (10_state.md R18). -/
inductive Cause where
  | none | preamble | short | length | checksum
  deriving DecidableEq, Repr

/-- FENC's sequencer states `E_IDLE` .. `E_CRCL` (10_state.md R14). -/
inductive EState where
  | idle | pre | len | cmd | pay | crcHi | crcLo
  deriving DecidableEq, Repr

/-- FDEC's sequencer states `D_PRE` .. `D_ERR` (10_state.md R15). -/
inductive DState where
  | pre | len | cmd | pay | crcHi | crcLo | ok | err
  deriving DecidableEq, Repr

/-- A byte buffer: the bytes that hold a value, by strictly rising index. A byte that is not listed
holds no value (10_state.md R31). -/
abbrev Memory := List Host.Cell

/-- The canonical form of a buffer: indexes strictly rising. (An unlisted byte reads as no value, which
no entry can equal.) -/
def Memory.wf (m : Memory) : Bool := decide ((m.map Prod.fst).Pairwise (· < ·))

/-- FENC's registers and its payload buffer (10_state.md R12, R30). -/
structure Fenc where
  state : EState
  idx : Byte
  cmd : Byte
  n : Byte
  len : Byte
  crc : Word
  status : BitVec 2
  payTx : Memory
  deriving DecidableEq, Repr

/-- FDEC's registers and its payload buffer (10_state.md R13, R30). -/
structure Fdec where
  state : DState
  idx : Byte
  len : Byte
  n : Byte
  cmd : Byte
  crc : Word
  rxcrc : Word
  cause : Cause
  payRx : Memory
  deriving DecidableEq, Repr

/-- The answer of `ENC.START` (30_encoding.md R75). -/
inductive StartAnswer where
  | accepted | busy | length
  deriving DecidableEq, Repr

/-- The result of `decode`: `Ok(command, payload)` or `MalformedFrame(cause)` (42_frame_decoder.md R130). -/
inductive Decoded where
  | ok (cmd : Byte) (payload : List Byte)
  | malformed (cause : Cause)
  deriving DecidableEq, Repr

/-- What an operation returns to the requester (30_encoding.md R75, column "returns"; R77 for the command
operations). -/
inductive Ret where
  /-- The operation returns nothing. -/
  | nothing
  /-- `CRC.READ`: the 16-bit value. -/
  | crc (v : Word)
  /-- `ENC.START`, and a command operation whose start is refused. -/
  | start (a : StartAnswer)
  /-- `ENC.STEP` in `E_IDLE`. -/
  | idle
  /-- `ENC.STEP`: the byte emitted and the `last` mark. -/
  | byte (b : Byte) (last : Bool)
  /-- `ENC.STATUS`: `e_state` and `e_status`. -/
  | encStatus (st : EState) (flags : BitVec 2)
  /-- `DEC.RESULT` before a verdict. -/
  | pending
  /-- `DEC.RESULT` with a verdict. -/
  | decoded (d : Decoded)
  /-- A command operation whose frame is out and that reads no reply: the bytes emitted (log 1). -/
  | emitted (bytes : List Byte)
  /-- `STATUS`: the mode and the frequency (43_command_frames.md R165). -/
  | status (mode : Mode) (freq : Nat)
  /-- `STATUS` whose serial read failed (60_exceptions.md R193). -/
  | channelIOError
  deriving DecidableEq, Repr

/-- The exchange that holds the gate: how far a command operation has come (30_encoding.md R77, 20_memory.md
R52). Each of its steps is one unit operation, so it moves at most one byte (00_scope.md R3; log 1). -/
inductive Exchange where
  /-- No exchange is in flight: the gate is free. -/
  | free
  /-- ENC.START was accepted and ENC.STEPs follow, up to the `last` mark. `query` says that a reply is read after it
  (STATUS); `start` is how many bytes `TX` held before the frame. -/
  | sending (query : Bool) (start : Nat)
  /-- The query frame is out and the bounded read of the reply has not returned (43_command_frames.md R164). -/
  | reading
  /-- The read has returned; this many of its bytes, first first in `RX`, are still to be pushed. -/
  | pushing (left : Nat)
  /-- DEC.END was given; the verdict is read next. -/
  | result
  deriving DecidableEq, Repr

/-- One move of an outside agent (70_reset_and_hazards.md R232; log 13). -/
inductive Input where
  /-- The requester starts an operation. -/
  | op (i : Instr)
  /-- The requester starts a command given as the hex listing of its frame (30_encoding.md R76). -/
  | listing (bytes : List Byte)
  /-- The device sends a byte (20_memory.md R51). -/
  | device (b : Byte)
  /-- The next read of the serial channel will fail (60_exceptions.md R193; log 18). -/
  | channelReadFault
  /-- The exchange in flight takes its next step; this is how the other moves fall between its steps (log 22). -/
  | turn
  deriving DecidableEq, Repr

/-- The state of the block and of its host interface. -/
structure State where
  /-- CRCG's register (10_state.md R11). -/
  crc : Word
  /-- FENC (R12). -/
  enc : Fenc
  /-- FDEC (R13). -/
  dec : Fdec
  /-- The `TX` stream: every byte emitted, first first (R30). -/
  tx : List Byte
  /-- The `RX` stream: device bytes the surroundings have not taken yet (R30). -/
  rx : List Byte
  /-- The configuration, which no step writes (00_scope.md R6; log 6). -/
  cfg : Config
  /-- MODEL'S OWN: what the last operation returned (log 5). -/
  ret : Ret
  /-- MODEL'S OWN: the outside agents' moves that wait, first first (log 13). -/
  inputs : List Input
  /-- MODEL'S OWN: the next serial read fails (log 18). -/
  readFault : Bool
  /-- MODEL'S OWN: the exchange in flight, which is the surroundings' (10_state.md R10; log 1, log 23). -/
  exchange : Exchange
  /-- MODEL'S OWN: a RESET has abandoned a frame part of which is in `TX` (70_reset_and_hazards.md R226; log 24). -/
  partialTx : Bool
  deriving DecidableEq, Repr

/-- Why the machine stops. -/
inductive Fault where
  /-- `ENC.STEP` reads a byte of `PAY_TX` that holds no value (10_state.md R31,
  93_implementation_defined.md U4). Raised by ENC.STEP, issued by a requester or by an exchange; no
  state that meets `Inv` raises it. Safe: the machine stops. -/
  | payTxNoValue
  /-- `DEC.RESULT` in `D_OK` reads a byte of `PAY_RX` that holds no value (10_state.md R31). Raised by
  DEC.RESULT, issued by a requester or by an exchange; no state that meets `Inv` raises it. Safe: the machine stops. -/
  | payRxNoValue
  /-- `DEC.PUSH` in `D_PAY` writes outside index 0..253 of `PAY_RX`, which the spec says never happens
  (20_memory.md R47). Raised by DEC.PUSH, issued by a requester or by an exchange; no state that meets `Inv` raises it.
  Safe: the machine stops. -/
  | payRxIndex
  deriving DecidableEq, Repr

/-- Why the machine has no meaning for what it was given. -/
inductive Refusal where
  /-- An instruction without a meaning in this model. Raised by no arm of `exec`. Safe. -/
  | notModelled (mnemonic : String)
  /-- A frame listing that is no frame: the preamble, the length or the byte count is wrong
  (30_encoding.md R67). Raised by `step`, never by `exec`. Safe: the machine stops. -/
  | badListing (why : Cause)
  /-- `MODE` with an identifier above 8: outside the builder's domain (93_implementation_defined.md U7,
  43_command_frames.md R163). Raised by MODE. Safe: the machine stops. -/
  | modeIdOutOfDomain
  deriving DecidableEq, Repr

/-- FENC after RESET (10_state.md R35). -/
def Fenc.reset : Fenc where
  state := .idle
  idx := 0
  cmd := 0
  n := 0
  len := 0
  crc := 0xFFFF
  status := 0
  payTx := []

/-- FDEC after RESET (10_state.md R35). -/
def Fdec.reset : Fdec where
  state := .pre
  idx := 0
  len := 0
  n := 0
  cmd := 0
  crc := 0xFFFF
  rxcrc := 0
  cause := .none
  payRx := []

/-- The machine right after power-on, which is a RESET (70_reset_and_hazards.md R220, 10_state.md R35).
`rx` and the model's own fields are DESIGN CHOICEs (log 5). -/
def State.reset : State where
  crc := 0xFFFF
  enc := Fenc.reset
  dec := Fdec.reset
  tx := []
  rx := []
  cfg := Config.hw
  ret := .nothing
  inputs := []
  readFault := false
  exchange := .free
  partialTx := false

end Sys2Proof.Machine
end

