-- ==== Sys2Proof/Machine/Flags.lean ====
section
/-! DEFINITION. The flags and the numeric codes of the status registers (10_state.md R14, R15, R17, R18). There
are no arithmetic flags (R18). -/

namespace Sys2Proof.Machine

/-- `E_ERR_LEN` is bit 0 of `e_status` (10_state.md R17). -/
def eErrLenBit : Nat := 0

/-- `E_ERR_BUSY` is bit 1 of `e_status` (R17). -/
def eErrBusyBit : Nat := 1

/-- Sets one sticky flag and keeps the other (R17). -/
def setFlag (flags : BitVec 2) (k : Nat) : BitVec 2 := flags ||| (1#2 <<< k)

/-- `E_ERR_LEN`. -/
def eErrLen (flags : BitVec 2) : Bool := flags.getLsbD eErrLenBit

/-- `E_ERR_BUSY`. -/
def eErrBusy (flags : BitVec 2) : Bool := flags.getLsbD eErrBusyBit

/-- The 3-bit code of `e_state` (R14). -/
def eStateCode : EState → BitVec 3
  | .idle => 0
  | .pre => 1
  | .len => 2
  | .cmd => 3
  | .pay => 4
  | .crcHi => 5
  | .crcLo => 6

/-- The 4-bit code of `d_state` (R15). -/
def dStateCode : DState → BitVec 4
  | .pre => 0
  | .len => 1
  | .cmd => 2
  | .pay => 3
  | .crcHi => 4
  | .crcLo => 5
  | .ok => 6
  | .err => 7

/-- The 3-bit code of `d_cause` (R18). -/
def causeCode : Cause → BitVec 3
  | .none => 0
  | .preamble => 1
  | .short => 2
  | .length => 3
  | .checksum => 4

end Sys2Proof.Machine
end

