-- ==== Sys2Proof/Machine/Operands.lean ====
section
/-! DEFINITION. The constants of a frame and the operand assembly of the command frames
(00_scope.md R5, 30_encoding.md R60, R65, R68, 43_command_frames.md R161 to R164). -/

namespace Sys2Proof.Machine

/-- One preamble byte. -/
def preambleByte : Byte := 0xA5

/-- `PREAMBLE` (00_scope.md R5). -/
def preamble : List Byte := [preambleByte, preambleByte, preambleByte, preambleByte]

/-- `OP_TX` (00_scope.md R5, 30_encoding.md R65). -/
def opTx : Byte := 0x07

/-- `OP_FREQ`. -/
def opFreq : Byte := 0x09

/-- `OP_MODE`. -/
def opMode : Byte := 0x0A

/-- `OP_STATUS`. -/
def opStatus : Byte := 0x0B

/-- The index one past the last byte of `PAY_TX` and `PAY_RX` (10_state.md R30). -/
def bufferSize : Nat := 254

/-- `LEN` of a frame with this payload: `1 + len(payload)` as a natural number (30_encoding.md R62). -/
def lenNat (payload : List Byte) : Nat := payload.length + 1

/-- The `LEN` byte. It equals `lenNat` when the payload has at most 254 bytes (41_frame_encoder.md R116). -/
def lenByte (payload : List Byte) : Byte := BitVec.ofNat 8 (lenNat payload)

/-- The body of a frame, `LEN ++ CMD ++ payload`: what the checksum covers (00_scope.md R9, 30_encoding.md R63). -/
def body (cmd : Byte) (payload : List Byte) : List Byte := lenByte payload :: cmd :: payload

/-- `be32(v)`: most significant byte first (00_scope.md R8, 20_memory.md R42). -/
def be32 (v : Hz) : List Byte :=
  [v.extractLsb' 24 8, v.extractLsb' 16 8, v.extractLsb' 8 8, v.extractLsb' 0 8]

/-- The payload of `TXCTL`: 00 for on, 01 for off (43_command_frames.md R161). -/
def txctlPayload (on : Bool) : List Byte := [if on then 0x00 else 0x01]

/-- The payload of `FREQ`: the frequency twice (R162). -/
def freqPayload (hz : Hz) : List Byte := be32 hz ++ be32 hz

/-- The payload of `MODE`: the identifier twice (R163). -/
def modePayload (id : Byte) : List Byte := [id, id]

/-- The command byte and payload of a frame-format instruction; none for a unit operation, which has no
encoding (30_encoding.md R65, R81). -/
def commandOf : Instr → Option (Byte × List Byte)
  | .frame cmd payload => some (cmd, payload)
  | .txctl on => some (opTx, txctlPayload on)
  | .freq hz => some (opFreq, freqPayload hz)
  | .mode id => some (opMode, modePayload id)
  | .status => some (opStatus, [])
  | .reset | .crcInit | .crcBit _ | .crcByte _ | .crcRead => none
  | .encStart _ _ | .encStep | .encStatus => none
  | .decStart | .decPush _ | .decEnd | .decResult => none

end Sys2Proof.Machine
end

