-- ==== Sys2Proof/WellFormed.lean ====
section
/-! DEFINITION. The domains the spec gives operands (00_scope.md R5, 41_frame_encoder.md R110,
43_command_frames.md R163) and a configuration (43_command_frames.md R167). -/

namespace Sys2Proof

/-- `MAX_PAYLOAD` (00_scope.md R5). -/
def maxPayload : Nat := 254

/-- The greatest mode identifier (43_command_frames.md R167). -/
def maxModeId : Byte := 8

/-- An instruction inside its operands' domain. `encStart` takes a payload of any length: the unit
itself refuses a long one (41_frame_encoder.md R111). -/
def Instr.wellFormed : Instr → Bool
  | .frame _ payload => decide (payload.length ≤ maxPayload)
  | .mode id => decide (id ≤ maxModeId)
  | .txctl _ | .freq _ | .status | .reset => true
  | .crcInit | .crcBit _ | .crcByte _ | .crcRead => true
  | .encStart _ _ | .encStep | .encStatus => true
  | .decStart | .decPush _ | .decEnd | .decResult => true

/-- A `MODE_ID` table as the source describes it: the nine modes, each once, USB first
(43_command_frames.md R167). -/
def Config.wellFormed (cfg : Config) : Bool :=
  decide (cfg.modes.length = 9) && decide cfg.modes.Nodup && decide (cfg.modes.head? = some .usb)

end Sys2Proof
end

