-- ==== Sys2Proof/Machine/Frame.lean ====
section
/-! DEFINITION. The two functions of the source: `encode` (41_frame_encoder.md R110) and `decode`
(42_frame_decoder.md R130). They are written from those rules alone and do not use the units; that the
units agree with them is a claim (R113, R135). -/

namespace Sys2Proof.Machine

/-- The bytes of `encode(cmd, payload)`; meaningful for at most 254 payload bytes (R110). -/
def frameBytes (r : Bool) (cmd : Byte) (payload : List Byte) : List Byte :=
  preamble ++ [lenByte payload] ++ [cmd] ++ payload ++ be16 (crc16 r (body cmd payload))

/-- `encode(cmd, payload)`: it has no value above 254 payload bytes (R110, R114). -/
def encodeFrame (r : Bool) (cmd : Byte) (payload : List Byte) : Option (List Byte) :=
  if payload.length ≤ maxPayload then some (frameBytes r cmd payload) else none

/-- The two checksum bytes as a number, first byte high (R130, R140). -/
def wordOf (hi lo : Byte) : Word := hi ++ lo

/-- `decode(buf)` (R130): the tests in the order the rule writes them; the bytes at `7 + L` and beyond are
never looked at (R137). -/
def decodeFrame (r : Bool) (buf : List Byte) : Decoded :=
  if (buf.take 4).any (fun b => b != preambleByte) then .malformed .preamble
  else
    match buf.drop 4 with
    | [] => .malformed .short
    | len :: rest =>
      if len = 0 then .malformed .length
      else if rest.length < len.toNat + 2 then .malformed .short
      else
        let covered := len :: rest.take len.toNat
        match rest.take len.toNat, rest.drop len.toNat with
        | cmd :: payload, hi :: lo :: _ =>
          if crc16 r covered = wordOf hi lo then .ok cmd payload else .malformed .checksum
        -- not reached: `rest` holds at least `len + 2` bytes and `len` is not 0
        | _, _ => .malformed .short

end Sys2Proof.Machine
end

