-- ==== Sys2Proof/Machine/Ops.lean ====
section
/-! DEFINITION. The operations the meanings share: the buffers (10_state.md R30, R31), the steps of FENC and
FDEC as functions of one unit (41_frame_encoder.md R111, R112, 42_frame_decoder.md R131 to R134), entering the
error state (60_exceptions.md R196), the updates of the state, and starting an exchange. -/

namespace Sys2Proof.Machine

/-! ### Byte buffers -/

/-- `MemRead(space, i, 1)`: none when the byte holds no value (00_scope.md R8, 10_state.md R31). -/
def Memory.read : Memory → Nat → Option Byte
  | [], _ => none
  | (k, v) :: rest, i => if k = i then some v else Memory.read rest i

/-- `MemWrite(space, i, 1, b)` (00_scope.md R8); keeps the indexes strictly rising. -/
def Memory.write : Memory → Nat → Byte → Memory
  | [], i, b => [(i, b)]
  | (k, v) :: rest, i, b =>
    if i < k then (i, b) :: (k, v) :: rest
    else if i = k then (i, b) :: rest
    else (k, v) :: Memory.write rest i b

/-- Writes `bs` at the indexes `i`, `i + 1`, ... -/
def Memory.writeFrom : Memory → Nat → List Byte → Memory
  | m, _, [] => m
  | m, i, b :: bs => Memory.writeFrom (Memory.write m i b) (i + 1) bs

/-- Reads the `k` bytes from index `i` on; none when one of them holds no value. -/
def Memory.readFrom (m : Memory) : Nat → Nat → Option (List Byte)
  | _, 0 => some []
  | i, k + 1 =>
    match m.read i, Memory.readFrom m (i + 1) k with
    | some b, some bs => some (b :: bs)
    | _, _ => none

/-! ### FENC -/

/-- `ENC.START command, payload` on FENC alone (41_frame_encoder.md R111): the busy test first, then the
length test. On acceptance `PAY_TX` holds the new payload and nothing else (10_state.md R31; log 7). -/
def fencStart (cmd : Byte) (payload : List Byte) (e : Fenc) : Fenc × StartAnswer :=
  if e.state ≠ .idle then (⟨e.state, e.idx, e.cmd, e.n, e.len, e.crc, setFlag e.status eErrBusyBit, e.payTx⟩, .busy)
  else if payload.length > maxPayload then
    (⟨e.state, e.idx, e.cmd, e.n, e.len, e.crc, setFlag e.status eErrLenBit, e.payTx⟩, .length)
  else
    (⟨.pre, 0, cmd, BitVec.ofNat 8 payload.length, lenByte payload, crcInitValue, e.status,
      Memory.writeFrom [] 0 payload⟩, .accepted)

/-- The byte of `PAY_TX` at `e_idx`, which holds a value only below `e_n` (10_state.md R31). -/
def fencPayload (e : Fenc) : Option Byte := if e.idx < e.n then e.payTx.read e.idx.toNat else none

/-- `ENC.STEP` on FENC alone (41_frame_encoder.md R112): the unit after the step and the byte emitted with its
`last` mark, or no byte in `E_IDLE`. -/
def fencStep (r : Bool) (e : Fenc) : Except Fault (Fenc × Option (Byte × Bool)) :=
  match e.state with
  | .idle => .ok (e, none)
  | .pre =>
    if e.idx = 3 then .ok ({ e with idx := 0, state := .len }, some (preambleByte, false))
    else .ok ({ e with idx := e.idx + 1 }, some (preambleByte, false))
  | .len => .ok ({ e with crc := crcByte r e.crc e.len, state := .cmd }, some (e.len, false))
  | .cmd =>
    .ok ({ e with crc := crcByte r e.crc e.cmd, idx := 0, state := if e.n = 0 then .crcHi else .pay },
      some (e.cmd, false))
  | .pay =>
    match fencPayload e with
    | none => .error .payTxNoValue
    | some b =>
      if e.idx = e.n - 1 then .ok ({ e with crc := crcByte r e.crc b, state := .crcHi }, some (b, false))
      else .ok ({ e with crc := crcByte r e.crc b, idx := e.idx + 1 }, some (b, false))
  | .crcHi => .ok ({ e with state := .crcLo }, some (hi8 (e.crc ^^^ crcXorOut), false))
  | .crcLo => .ok ({ e with state := .idle }, some (lo8 (e.crc ^^^ crcXorOut), true))

/-- How many bytes of its frame FENC has emitted (41_frame_encoder.md R112, R117); 0 in `E_IDLE`. -/
def Fenc.progress (e : Fenc) : Nat :=
  match e.state with
  | .idle => 0
  | .pre => e.idx.toNat
  | .len => 4
  | .cmd => 5
  | .pay => 6 + e.idx.toNat
  | .crcHi => 6 + e.n.toNat
  | .crcLo => 7 + e.n.toNat

/-! ### FDEC -/

/-- `raise MalformedFrame(cause)`: the one way into `D_ERR`; nothing but the state and the cause changes
(60_exceptions.md R196). -/
def raiseMalformed (cause : Cause) (d : Fdec) : Fdec := { d with state := .err, cause := cause }

/-- `DEC.START` on FDEC alone (42_frame_decoder.md R131): the way out of `D_OK` and `D_ERR`
(60_exceptions.md R198). `PAY_RX` keeps its bytes, which no operation reads before they are written again. -/
def fdecStart (d : Fdec) : Fdec :=
  { d with state := .pre, idx := 0, cause := .none, len := 0, n := 0, cmd := 0, crc := crcInitValue, rxcrc := 0 }

/-- `DEC.PUSH b` on FDEC alone (42_frame_decoder.md R132). -/
def fdecPush (r : Bool) (b : Byte) (d : Fdec) : Except Fault Fdec :=
  match d.state with
  | .pre =>
    if b ≠ preambleByte then .ok (raiseMalformed .preamble d)
    else if d.idx = 3 then .ok { d with idx := 0, state := .len }
    else .ok { d with idx := d.idx + 1 }
  | .len =>
    if b = 0 then .ok (raiseMalformed .length d)
    else .ok { d with len := b, n := b - 1, crc := crcByte r d.crc b, state := .cmd }
  | .cmd =>
    .ok { d with cmd := b, crc := crcByte r d.crc b, idx := 0, state := if d.n = 0 then .crcHi else .pay }
  | .pay =>
    if d.idx.toNat < bufferSize then
      if d.idx = d.n - 1 then
        .ok { d with payRx := d.payRx.write d.idx.toNat b, crc := crcByte r d.crc b, state := .crcHi }
      else
        .ok { d with payRx := d.payRx.write d.idx.toNat b, crc := crcByte r d.crc b, idx := d.idx + 1 }
    else .error .payRxIndex
  | .crcHi => .ok { d with rxcrc := wordOf b (lo8 d.rxcrc), state := .crcLo }
  | .crcLo =>
    if d.crc ^^^ crcXorOut = wordOf (hi8 d.rxcrc) b then .ok { d with rxcrc := wordOf (hi8 d.rxcrc) b, state := .ok }
    else .ok (raiseMalformed .checksum { d with rxcrc := wordOf (hi8 d.rxcrc) b })
  | .ok => .ok d
  | .err => .ok d

/-- `DEC.END` on FDEC alone (42_frame_decoder.md R133). -/
def fdecEnd (d : Fdec) : Fdec :=
  match d.state with
  | .ok => d
  | .err => d
  | .pre | .len | .cmd | .pay | .crcHi | .crcLo => raiseMalformed .short d

/-- `DEC.RESULT` on FDEC alone (42_frame_decoder.md R134): none before a verdict. -/
def fdecResult (d : Fdec) : Except Fault (Option Decoded) :=
  match d.state with
  | .ok =>
    match d.payRx.readFrom 0 d.n.toNat with
    | some payload => .ok (some (.ok d.cmd payload))
    | none => .error .payRxNoValue
  | .err => .ok (some (.malformed d.cause))
  | .pre | .len | .cmd | .pay | .crcHi | .crcLo => .ok none

/-! ### The state -/

/-- The outcome of a meaning. -/
abbrev Result := Host.Outcome State Fault Refusal

/-- Goes on only from a next state. -/
def Result.andThen (x : Result) (f : State → Result) : Result :=
  match x with
  | .next s => f s
  | .fault e => .fault e
  | .refused e => .refused e

/-- Writes CRCG's register. -/
def State.setCrc (s : State) (v : Word) : State := { s with crc := v }

/-- Writes FENC. -/
def State.setEnc (s : State) (v : Fenc) : State := { s with enc := v }

/-- Writes FDEC. -/
def State.setDec (s : State) (v : Fdec) : State := { s with dec := v }

/-- `emit(b)`: appends to the `TX` stream (00_scope.md R8, 20_memory.md R40). -/
def State.emit (s : State) (b : Byte) : State := { s with tx := s.tx ++ [b] }

/-- Takes the next byte off the `RX` stream, if one waits (20_memory.md R45; log 3). -/
def State.takeRx (s : State) : State := { s with rx := s.rx.tail }

/-- A byte arrives from the device (20_memory.md R51). -/
def State.receive (s : State) (b : Byte) : State := { s with rx := s.rx ++ [b] }

/-- What the operation returns to the requester. -/
def State.answer (s : State) (v : Ret) : State := { s with ret := v }

/-- The moves that still wait. -/
def State.setInputs (s : State) (v : List Input) : State := { s with inputs := v }

/-- Whether the next serial read fails (60_exceptions.md R193). -/
def State.setReadFault (s : State) (v : Bool) : State := { s with readFault := v }

/-- Where the exchange in flight stands. -/
def State.setExchange (s : State) (v : Exchange) : State := { s with exchange := v }

/-- Whether a partial frame lies abandoned in `TX` (70_reset_and_hazards.md R226; log 24). -/
def State.setPartialTx (s : State) (v : Bool) : State := { s with partialTx := v }

/-- `CRC_REFLECT`. -/
def State.reflect (s : State) : Bool := s.cfg.crcReflect

/-- `ENC.START` on the state. -/
def encStart (cmd : Byte) (payload : List Byte) (s : State) : Result :=
  .next ((s.setEnc (fencStart cmd payload s.enc).1).answer (.start (fencStart cmd payload s.enc).2))

/-- `ENC.STEP` on the state. -/
def encStep (s : State) : Result :=
  match fencStep s.reflect s.enc with
  | .error e => .fault e
  | .ok (e, none) => .next ((s.setEnc e).answer .idle)
  | .ok (e, some (b, last)) => .next (((s.setEnc e).emit b).answer (.byte b last))

/-- `DEC.START` on the state. -/
def decStart (s : State) : Result := .next ((s.setDec (fdecStart s.dec)).answer .nothing)

/-- `DEC.PUSH b` on the state: it consumes one byte of the `RX` stream (20_memory.md R45; log 3). -/
def decPush (b : Byte) (s : State) : Result :=
  match fdecPush s.reflect b s.dec with
  | .error e => .fault e
  | .ok d => .next (((s.setDec d).takeRx).answer .nothing)

/-- `DEC.END` on the state. -/
def decEnd (s : State) : Result := .next ((s.setDec (fdecEnd s.dec)).answer .nothing)

/-- `DEC.RESULT` on the state. -/
def decResult (s : State) : Result :=
  match fdecResult s.dec with
  | .error e => .fault e
  | .ok none => .next (s.answer .pending)
  | .ok (some d) => .next (s.answer (.decoded d))

/-- The first step of a command operation: ENC.START (30_encoding.md R77). When it is accepted the exchange holds the gate
and its ENC.STEPs follow, one a step (`advance`); a refused start is the operation's answer and ends it
(41_frame_encoder.md R111, R114, R115; log 1, log 15). -/
def startExchange (query : Bool) (cmd : Byte) (payload : List Byte) (s : State) : Result :=
  Result.andThen (encStart cmd payload s) fun t =>
    match t.ret with
    | .start .accepted => .next (t.setExchange (.sending query s.tx.length))
    | _ => .next t

end Sys2Proof.Machine
end

