-- ==== Sys2Proof/Machine/Commands.lean ====
section
/-! DEFINITION. The command operations (43_command_frames.md R160 to R166, 30_encoding.md R77). The instruction itself takes
the first step of its exchange, ENC.START; the steps after it are `advance`'s (log 1). -/

namespace Sys2Proof.Machine

/-- `FRAME cmd, [payload]`: `encode(cmd, payload)` (41_frame_encoder.md R110, 30_encoding.md R77). -/
def execFrame (cmd : Byte) (payload : List Byte) (s : State) : Result := startExchange false cmd payload s

/-- `TXCTL` (R161). -/
def execTxctl (on : Bool) (s : State) : Result := startExchange false opTx (txctlPayload on) s

/-- `FREQ` (R162). -/
def execFreq (hz : Hz) (s : State) : Result := startExchange false opFreq (freqPayload hz) s

/-- `MODE` (R163); an identifier above 8 is outside the builder's domain and refused
(93_implementation_defined.md U7; log 14). -/
def execMode (id : Byte) (s : State) : Result :=
  if id ≤ maxModeId then startExchange false opMode (modePayload id) s else .refused .modeIdOutOfDomain

/-- `STATUS` (R164): the query frame, after which the reply is read and parsed (R165). -/
def execStatus (s : State) : Result := startExchange true opStatus [] s

end Sys2Proof.Machine
end

