-- ==== Sys2Proof/Machine/CrcGen.lean ====
section
/-! DEFINITION. The operations of the CRC generator CRCG (40_crc_generator.md R96 to R99). -/

namespace Sys2Proof.Machine

/-- `CRC.INIT` (R96). -/
def execCrcInit (s : State) : Result := .next ((s.setCrc crcInitValue).answer .nothing)

/-- `CRC.BIT d` (R97). -/
def execCrcBit (d : Bool) (s : State) : Result := .next ((s.setCrc (crcBit s.reflect s.crc d)).answer .nothing)

/-- `CRC.BYTE b` (R98). -/
def execCrcByte (b : Byte) (s : State) : Result := .next ((s.setCrc (crcByte s.reflect s.crc b)).answer .nothing)

/-- `CRC.READ` (R99). -/
def execCrcRead (s : State) : Result := .next (s.answer (.crc (s.crc ^^^ crcXorOut)))

end Sys2Proof.Machine
end

