-- ==== Sys2Proof/Machine/Decoder.lean ====
section
/-! DEFINITION. The operations of the frame decoder FDEC (42_frame_decoder.md R131 to R134). -/

namespace Sys2Proof.Machine

/-- `DEC.START` (R131). -/
def execDecStart (s : State) : Result := decStart s

/-- `DEC.PUSH b` (R132, R136). -/
def execDecPush (b : Byte) (s : State) : Result := decPush b s

/-- `DEC.END` (R133). -/
def execDecEnd (s : State) : Result := decEnd s

/-- `DEC.RESULT` (R134). -/
def execDecResult (s : State) : Result := decResult s

end Sys2Proof.Machine
end

