-- ==== Sys2Proof/Machine/Encoder.lean ====
section
/-! DEFINITION. The operations of the frame encoder FENC (41_frame_encoder.md R111, R112, R119). -/

namespace Sys2Proof.Machine

/-- `ENC.START command, payload` (R111, R114, R115). -/
def execEncStart (cmd : Byte) (payload : List Byte) (s : State) : Result := encStart cmd payload s

/-- `ENC.STEP` (R112, R117). -/
def execEncStep (s : State) : Result := encStep s

/-- `ENC.STATUS` (R119). -/
def execEncStatus (s : State) : Result := .next (s.answer (.encStatus s.enc.state s.enc.status))

end Sys2Proof.Machine
end

