-- ==== Sys2Proof/Machine/ResetOp.lean ====
section
/-! DEFINITION. RESET (70_reset_and_hazards.md R220, R221; 10_state.md R35). -/

namespace Sys2Proof.Machine

/-- Whether FENC is in the middle of a frame, some bytes of which are in `TX` and some are not. -/
def midFrame (e : Fenc) : Bool := decide (e.progress ≠ 0)

/-- `RESET`: every register takes its reset value at once, the buffers lose their values, nothing is emitted.
Bytes already in `TX` stay there, and when FENC was in the middle of a frame they end in a partial one, for good
(R220, R226; log 4, log 24). The exchange in flight is abandoned (log 23); `RX` is not touched. -/
def execReset (s : State) : Result :=
  .next ((((((s.setCrc State.reset.crc).setEnc Fenc.reset).setDec Fdec.reset).setExchange .free).setPartialTx
    (s.partialTx || midFrame s.enc)).answer .nothing)

end Sys2Proof.Machine
end

