-- ==== Sys2Proof/Machine/Dispatch.lean ====
section
/-! DEFINITION. The meaning of every instruction of the opcode table, one arm per constructor. -/

namespace Sys2Proof.Machine

/-- One instruction in one state. -/
def exec (i : Instr) (s : State) : Host.Outcome State Fault Refusal :=
  match i with
  | .frame cmd payload => Sys2Proof.Machine.execFrame cmd payload s
  | .txctl on => Sys2Proof.Machine.execTxctl on s
  | .freq hz => Sys2Proof.Machine.execFreq hz s
  | .mode id => Sys2Proof.Machine.execMode id s
  | .status => Sys2Proof.Machine.execStatus s
  | .reset => Sys2Proof.Machine.execReset s
  | .crcInit => Sys2Proof.Machine.execCrcInit s
  | .crcBit d => Sys2Proof.Machine.execCrcBit d s
  | .crcByte b => Sys2Proof.Machine.execCrcByte b s
  | .crcRead => Sys2Proof.Machine.execCrcRead s
  | .encStart cmd payload => Sys2Proof.Machine.execEncStart cmd payload s
  | .encStep => Sys2Proof.Machine.execEncStep s
  | .encStatus => Sys2Proof.Machine.execEncStatus s
  | .decStart => Sys2Proof.Machine.execDecStart s
  | .decPush b => Sys2Proof.Machine.execDecPush b s
  | .decEnd => Sys2Proof.Machine.execDecEnd s
  | .decResult => Sys2Proof.Machine.execDecResult s

end Sys2Proof.Machine
end

