-- ==== Sys2Proof/Machine/ModeTable.lean ====
section
/-! DEFINITION. The mode table and its two lookups (43_command_frames.md R167 to R169). Names are ASCII bytes.
The default when nothing matches is USB, identifier 0. -/

namespace Sys2Proof.Machine

/-- The name of a mode in ASCII (R167). -/
def modeName : Mode → List Byte
  | .usb => [0x55, 0x53, 0x42]
  | .lsb => [0x4C, 0x53, 0x42]
  | .cwr => [0x43, 0x57, 0x52]
  | .cwl => [0x43, 0x57, 0x4C]
  | .am => [0x41, 0x4D]
  | .wfm => [0x57, 0x46, 0x4D]
  | .nfm => [0x4E, 0x46, 0x4D]
  | .digi => [0x44, 0x49, 0x47, 0x49]
  | .pkt => [0x50, 0x4B, 0x54]

/-- An ASCII letter in upper case; every other byte as it is. -/
def upperCase (b : Byte) : Byte := if 0x61 ≤ b ∧ b ≤ 0x7A then b - 0x20 else b

/-- The index of the first element that satisfies `p`; none if there is none. -/
def firstIndex {α : Type} (p : α → Bool) : List α → Option Nat
  | [] => none
  | a :: as => if p a then some 0 else (firstIndex p as).map (· + 1)

/-- `MODE_ID(mode)` (R163, R167). -/
def modeIdOf (cfg : Config) (m : Mode) : Nat := (firstIndex (fun x => decide (x = m)) cfg.modes).getD 0

/-- `mode_name_to_id(name)` (R168): the comparison ignores letter case; an unknown name gives 0. -/
def modeNameToId (cfg : Config) (name : List Byte) : Nat :=
  (firstIndex (fun x => decide (modeName x = name.map upperCase)) cfg.modes).getD 0

/-- `mode_id_to_name(id)` (R169), as the mode named: an unknown identifier gives USB. -/
def modeOfId (cfg : Config) (id : Nat) : Mode := (cfg.modes[id]?).getD .usb

end Sys2Proof.Machine
end

