-- ==== Sys2Proof/Machine/StatusReply.lean ====
section
/-! DEFINITION. Parsing the status reply and the fallback status (43_command_frames.md R165, R166). -/

namespace Sys2Proof.Machine

/-- The big-endian number of a byte sequence (R165). -/
def beNat (bs : List Byte) : Nat := bs.foldl (fun acc b => acc * 256 + b.toNat) 0

/-- `FALLBACK`: USB and frequency 0 (R166). -/
def fallbackStatus : Mode × Nat := (.usb, 0)

/-- `parse_status` on the result of `decode` (R165); the reply's command byte is not checked. -/
def parseStatus (cfg : Config) : Decoded → Mode × Nat
  | .malformed _ => fallbackStatus
  | .ok _ payload =>
    if payload.length ≤ cfg.statusModeOffset then fallbackStatus
    else if payload.length < cfg.statusFreqOffset + cfg.statusFreqWidth then fallbackStatus
    else
      (modeOfId cfg (payload.getD cfg.statusModeOffset 0).toNat,
        beNat ((payload.drop cfg.statusFreqOffset).take cfg.statusFreqWidth))

end Sys2Proof.Machine
end

