-- ==== Sys2Proof/Machine/Exchange.lean ====
section
/-! DEFINITION. The steps of an exchange after its ENC.START (30_encoding.md R77, 43_command_frames.md R160 to R166). Each is
one unit operation, or the return of the serial read, so no step moves more than one byte (00_scope.md R3,
92_eei_decisions.md D1). Between two of them any other agent may step (10_state.md R10; log 1, log 22). -/

namespace Sys2Proof.Machine

/-- The frame is out: STATUS goes on to its reply, any other command operation has its answer and frees the gate. -/
def frameSent (query : Bool) (start : Nat) (s : State) : State :=
  if query then s.setExchange .reading else (s.setExchange .free).answer (.emitted (s.tx.drop start))

/-- One ENC.STEP of the exchange; `E_IDLE` after it says that the frame is out (20_memory.md R54). DESIGN CHOICE (log 25): it
steps whatever frame is in FENC, also when a requester that ignores the gate has finished this one and begun another. -/
def sendStep (query : Bool) (start : Nat) (s : State) : Result :=
  Result.andThen (encStep s) fun t =>
    if t.enc.state = .idle then .next (frameSent query start t) else .next t

/-- The bounded read returns: with up to `RX_WINDOW` of the bytes that wait, and FDEC is started on them
(43_command_frames.md R164), or with `ChannelIOError`, and FDEC is not run (60_exceptions.md R193; log 2, log 18). -/
def readReturns (s : State) : Result :=
  if s.readFault then .next (((s.setReadFault false).setExchange .free).answer .channelIOError)
  else Result.andThen (decStart s) fun t => .next (t.setExchange (.pushing (min s.cfg.rxWindow s.rx.length)))

/-- One DEC.PUSH of the next byte of the reply, or DEC.END when none is left (42_frame_decoder.md R130, R133).
DESIGN CHOICE (log 25): where a requester that ignores the gate has pushed between two of these steps, `left` still counts
from the return of the read, so the push takes what then heads `RX`, a byte that arrived later among them, and DEC.END comes
early when `RX` is empty. -/
def pushStep (left : Nat) (s : State) : Result :=
  match left, s.rx with
  | k + 1, b :: _ => Result.andThen (decPush b s) fun t => .next (t.setExchange (.pushing k))
  | _, _ => Result.andThen (decEnd s) fun t => .next (t.setExchange .result)

/-- DEC.RESULT, and the parse of what it returns (43_command_frames.md R165). A requester that ignored the gate and
restarted FDEC makes it `pending`, and the verdict is read again (20_memory.md R54; log 23). -/
def resultStep (s : State) : Result :=
  Result.andThen (decResult s) fun t =>
    match t.ret with
    | .decoded d =>
      .next ((t.setExchange .free).answer (.status (parseStatus t.cfg d).1 (parseStatus t.cfg d).2))
    | _ => .next t

/-- The next step of the exchange in flight; with none, nothing happens (70_reset_and_hazards.md R221; log 19). -/
def advance (s : State) : Result :=
  match s.exchange with
  | .free => .next s
  | .sending query start => sendStep query start s
  | .reading => readReturns s
  | .pushing left => pushStep left s
  | .result => resultStep s

end Sys2Proof.Machine
end

