-- ==== Sys2Proof/Decode.lean ====
section
/-! DEFINITION. From bytes to instructions and back (30_encoding.md R60 to R68, R81). The rows of format
FRAME have bytes; the unit operations have none, and the spec says that none is to be invented (R81).

Two decoders: `decodeListing` reads what the requester hands over, the six header bytes of the opcode table
and the payload, and leaves the checksum bytes, which are no operand (FENC computes them, R63; log 10);
`decodeWire` reads a frame as FDEC does, checksum included (42_frame_decoder.md R130). -/

namespace Sys2Proof

open Sys2Proof.Machine

/-- The most specific row for a command and its payload: a command row when the payload is one the command
layer builds, the generic row otherwise (30_encoding.md R65, R67, R81; log 11). -/
def classify (cmd : Byte) (payload : List Byte) : Instr :=
  if cmd = opTx then
    match payload with
    | [pp] => if pp = 0x00 then .txctl true else if pp = 0x01 then .txctl false else .frame cmd payload
    | _ => .frame cmd payload
  else if cmd = opFreq then
    match payload with
    | [a3, a2, a1, a0, b3, b2, b1, b0] =>
      if a3 = b3 ∧ a2 = b2 ∧ a1 = b1 ∧ a0 = b0 then .freq (a3 ++ a2 ++ a1 ++ a0) else .frame cmd payload
    | _ => .frame cmd payload
  else if cmd = opMode then
    match payload with
    | [a, b] => if a = b ∧ a ≤ maxModeId then .mode a else .frame cmd payload
    | _ => .frame cmd payload
  else if cmd = opStatus then
    match payload with
    | [] => .status
    | _ => .frame cmd payload
  else .frame cmd payload

/-- Reads a command listing: preamble, `LEN`, `CMD` and `LEN - 1` payload bytes; answers the instruction and
the bytes after the payload. It refuses, by cause, what 30_encoding.md R67 calls no frame or illegal. -/
def decodeListing (bs : List Byte) : Except Cause (Instr × List Byte) :=
  if (bs.take 4).any (fun b => b != preambleByte) then .error .preamble
  else
    match bs.drop 4 with
    | [] => .error .short
    | len :: rest =>
      if len = 0 then .error .length
      else if rest.length < len.toNat then .error .short
      else
        match rest.take len.toNat with
        | cmd :: payload => .ok (classify cmd payload, rest.drop len.toNat)
        -- not reached: `len` is not 0 and `rest` holds `len` bytes
        | [] => .error .short

/-- Reads a whole frame as FDEC does and names its row (42_frame_decoder.md R130, 30_encoding.md R81). -/
def decodeWire (r : Bool) (bs : List Byte) : Except Cause Instr :=
  match decodeFrame r bs with
  | .ok cmd payload => .ok (classify cmd payload)
  | .malformed cause => .error cause

/-- The bytes of an instruction of format FRAME (41_frame_encoder.md R110, 43_command_frames.md R161 to
R164); none for a unit operation (30_encoding.md R81) or a payload that has no frame (R114). -/
def encodeInstr (r : Bool) (i : Instr) : Option (List Byte) :=
  match commandOf i with
  | some (cmd, payload) => encodeFrame r cmd payload
  | none => none

/-- The instruction that the bytes of a frame-format instruction stand for: a hand-written `FRAME` that
has a command row's operands is that row (30_encoding.md R81). -/
def Instr.specific (i : Instr) : Instr :=
  match commandOf i with
  | some (cmd, payload) => classify cmd payload
  | none => i

/-- The first six bytes read as one big-endian 48-bit number (30_encoding.md R60, R81). -/
def headerWord (bs : List Byte) : BitVec 48 :=
  bs.getD 0 0 ++ bs.getD 1 0 ++ bs.getD 2 0 ++ bs.getD 3 0 ++ bs.getD 4 0 ++ bs.getD 5 0

/-- The `match` column of the opcode table (R81). -/
def rowMatch : Instr → Option (BitVec 48)
  | .frame _ _ => some 0xA5A5A5A50000
  | .txctl _ => some 0xA5A5A5A50207
  | .freq _ => some 0xA5A5A5A50909
  | .mode _ => some 0xA5A5A5A5030A
  | .status => some 0xA5A5A5A5010B
  | .reset | .crcInit | .crcBit _ | .crcByte _ | .crcRead => none
  | .encStart _ _ | .encStep | .encStatus => none
  | .decStart | .decPush _ | .decEnd | .decResult => none

/-- The `mask` column of the opcode table (R81). -/
def rowMask : Instr → Option (BitVec 48)
  | .frame _ _ => some 0xFFFFFFFF0000
  | .txctl _ | .freq _ | .mode _ | .status => some 0xFFFFFFFFFFFF
  | .reset | .crcInit | .crcBit _ | .crcByte _ | .crcRead => none
  | .encStart _ _ | .encStep | .encStatus => none
  | .decStart | .decPush _ | .decEnd | .decResult => none

/-- `k` bytes of a number, most significant first: how the opcode table numbers a header (R60, R81). -/
def bigEndianBytes : Nat → Nat → List Byte
  | 0, _ => []
  | k + 1, w => BitVec.ofNat 8 (w >>> (8 * k)) :: bigEndianBytes k w

/-- `MAX_FRAME` (00_scope.md R5). -/
def maxFrame : Nat := 262

/-- The bytes of a table word: the word's own bytes as the table numbers them, then zeros up to the longest
frame (log 12). -/
def tableBytes (nbits w : Nat) : List Byte :=
  bigEndianBytes (nbits / 8) w ++ List.replicate (maxFrame - nbits / 8) 0

/-- The instruction the decoder reads from a word of the opcode table. -/
def decodeTableWord (nbits w : Nat) : Option Instr :=
  match decodeListing (tableBytes nbits w) with
  | .ok (i, _) => some i
  | .error _ => none

end Sys2Proof
end

