-- ==== Sys2Proof/Machine/Fetch.lean ====
section
/-! DEFINITION. Which move comes next: the first waiting input of an outside agent (70_reset_and_hazards.md R232,
10_state.md R10, R16: there is no program counter and no fetch; log 13, log 19). -/

namespace Sys2Proof.Machine

/-- What the next step does. -/
inductive Move where
  /-- An instruction runs in this state. -/
  | run (i : Instr) (s : State)
  /-- The exchange in flight takes its next step in this state. -/
  | exchange (s : State)
  /-- Nothing runs; the state is this one. -/
  | quiet (s : State)
  /-- The listing is no frame. -/
  | bad (why : Cause)
  deriving DecidableEq, Repr

/-- A command operation starts an exchange, for which it needs the gate; a unit operation does not
(20_memory.md R52). -/
def needsGate (i : Instr) : Bool := (commandOf i).isSome

/-- An exchange is in flight (20_memory.md R52). -/
def State.gateHeld (s : State) : Bool := decide (s.exchange ≠ .free)

/-- An operation of the requester: a command operation waits, still first, while an exchange is in flight
(43_command_frames.md R160, 20_memory.md R52; log 23); every other runs at once (60_exceptions.md R201). -/
def requested (i : Instr) (rest : List Input) (s : State) : Move :=
  if needsGate i && s.gateHeld then .exchange s else .run i (s.setInputs rest)

/-- Takes the first waiting input. With none, the exchange in flight goes on, and with no exchange each unit waits for its
first operation (70_reset_and_hazards.md R221). -/
def nextMove (s : State) : Move :=
  match s.inputs with
  | [] => .exchange s
  | .op i :: rest => requested i rest s
  | .listing bytes :: rest =>
    match decodeListing bytes with
    | .ok (i, _) => requested i rest s
    | .error why => .bad why
  | .device b :: rest => .quiet ((s.setInputs rest).receive b)
  | .channelReadFault :: rest => .quiet ((s.setInputs rest).setReadFault true)
  | .turn :: rest => .exchange (s.setInputs rest)

/-- The state with a listing placed as the next input, and the gate free for it (log 12). -/
def placeListing (s : State) (bytes : List Byte) : State :=
  (s.setInputs (.listing bytes :: s.inputs)).setExchange .free

end Sys2Proof.Machine
end

