-- ==== Sys2Proof/Machine/Step.lean ====
section
/-! DEFINITION. One step of the machine, and how a word of the opcode table is placed as the next instruction. -/

namespace Sys2Proof.Machine

/-- One step: the next move (`nextMove`), and the instruction it runs or the exchange's own next step. -/
def step (s : State) : Host.Outcome State Fault Refusal :=
  match nextMove s with
  | .run i t => exec i t
  | .exchange t => advance t
  | .quiet t => .next t
  | .bad why => .refused (.badListing why)

/-- The state with the instruction of a table word as its next input (log 12, log 13). -/
def State.withFetchWord (s : State) (nbits w : Nat) : State := placeListing s (tableBytes nbits w)

end Sys2Proof.Machine
end

