-- ==== Sys2Proof/Machine/TextLine.lean ====
section
/-! DEFINITION. The text line grammar of 30_encoding.md R80: which frame a line of the Control Server asks for. The
server itself, its sessions and its replies are outside the block (00_scope.md R4); this is only the one
"assembler" of frames the spec transcribes. A line is a list of ASCII bytes. -/

namespace Sys2Proof.Machine

/-- What a line asks for (R80, column "action"). -/
inductive LineAction where
  /-- `F<int>`, `M <mode> <width>`, `T<0|1>`, `m`: the command operation to run. -/
  | run (i : Instr)
  /-- `f`: a fixed frequency string; no frame. -/
  | fixedFrequency
  /-- `t`: a fixed string; no frame. -/
  | fixedTransmit
  /-- `v` / `V`: static strings; no frame. -/
  | identity
  /-- `q`: the session closes; no frame. -/
  | quit
  /-- Anything else: `RPRT -1`; no frame. -/
  | unknown
  /-- `F<int>` with a number that is negative or does not fit 32 bits: refused by the parser (43_command_frames.md R162,
  93_implementation_defined.md U15). -/
  | outOfDomain
  deriving DecidableEq, Repr

/-- ASCII white space: tab, line feed, carriage return, space. -/
def isBlank (b : Byte) : Bool := b = 0x09 || b = 0x0A || b = 0x0D || b = 0x20

/-- A line without white space at either end. -/
def trimmed (line : List Byte) : List Byte := ((line.dropWhile isBlank).reverse.dropWhile isBlank).reverse

/-- The words of a text between white space. -/
def wordsOf : List Byte → List Byte → List (List Byte)
  | [], [] => []
  | [], acc => [acc.reverse]
  | b :: bs, acc =>
    if isBlank b then
      match acc with
      | [] => wordsOf bs []
      | _ => acc.reverse :: wordsOf bs []
    else wordsOf bs (b :: acc)

/-- A non-empty run of decimal digits as a number; none for anything else (log 21). -/
def decimal : List Byte → Option Nat
  | [] => none
  | ds =>
    if ds.all (fun b => decide (0x30 ≤ b ∧ b ≤ 0x39)) then
      some (ds.foldl (fun acc b => acc * 10 + (b.toNat - 0x30)) 0)
    else none

/-- The `<int>` of `F<int>`: decimal digits, or a minus sign and decimal digits (R80; log 21). -/
def integer : List Byte → Option Int
  | [] => none
  | b :: ds =>
    if b = 0x2D then (decimal ds).map fun n => -(n : Int) else (decimal (b :: ds)).map fun n => (n : Int)

/-- `F<int>`: a number outside 0..4294967295, a negative one among them, is refused and never wrapped
(R80, R162; 92_eei_decisions.md D23, 93_implementation_defined.md U15). -/
def frequencyLine (text : List Byte) : LineAction :=
  match integer text with
  | none => .unknown
  | some v => if 0 ≤ v ∧ v < 2 ^ 32 then .run (.freq (BitVec.ofNat 32 v.toNat)) else .outOfDomain

/-- `M <mode> <width>` after the letter `M`; the width is ignored (R80, R168). -/
def modeLine (cfg : Config) (rest : List Byte) : LineAction :=
  match rest with
  | [] => .unknown
  | b :: bs =>
    if isBlank b then
      match wordsOf bs [] with
      | [name, _width] => .run (.mode (BitVec.ofNat 8 (modeNameToId cfg name)))
      | _ => .unknown
    else .unknown

/-- What a line asks for (R80). -/
def lineAction (cfg : Config) (line : List Byte) : LineAction :=
  match trimmed line with
  | [] => .unknown
  | c :: rest =>
    if c = 0x46 then frequencyLine rest
    else if c = 0x4D then modeLine cfg rest
    else if c = 0x54 then
      match rest with
      | [d] => if d = 0x31 then .run (.txctl true) else if d = 0x30 then .run (.txctl false) else .unknown
      | _ => .unknown
    else
      match rest with
      | [] =>
        if c = 0x66 then .fixedFrequency
        else if c = 0x6D then .run .status
        else if c = 0x74 then .fixedTransmit
        else if c = 0x76 ∨ c = 0x56 then .identity
        else if c = 0x71 then .quit
        else .unknown
      | _ => .unknown

/-- The text of the `m` reply: the mode name, a space, the fixed width text (R80, 43_command_frames.md R166). -/
def statusLine (cfg : Config) (mode : Mode) : List Byte := modeName mode ++ [0x20] ++ cfg.statusWidthText

end Sys2Proof.Machine
end

