-- ==== Sys2Proof/Safety.lean ====
section
/-! DEFINITION. What counts as a safe state and a finished run, in the terms of the spec (10_state.md R12, R16, R18,
R31; 41_frame_encoder.md R116, R118; 42_frame_decoder.md R142), and runs of several operations. -/

namespace Sys2Proof.Machine

/-- A buffer in canonical form with every index in 0..253 (10_state.md R30). -/
def Memory.inv (m : Memory) : Prop := m.wf = true ∧ ∀ c ∈ m, c.1 < bufferSize

/-- While a frame is in progress `e_len = e_n + 1`, at most 255, and `PAY_TX` holds exactly the bytes below
`e_n` (10_state.md R12, R31). -/
def Fenc.frameInv (e : Fenc) : Prop :=
  e.n.toNat ≤ maxPayload ∧ e.len.toNat = e.n.toNat + 1 ∧ e.payTx.map Prod.fst = List.range e.n.toNat

/-- The payload of the frame in progress. -/
def Fenc.payload (e : Fenc) : List Byte := e.payTx.map Prod.snd

/-- FENC's invariant: the bounds of R16 and R116, and `e_crc` is the CRC of the body bytes emitted so far
(10_state.md R12). -/
def Fenc.inv (r : Bool) (e : Fenc) : Prop :=
  Memory.inv e.payTx ∧
  match e.state with
  | .idle => True
  | .pre => e.frameInv ∧ e.idx.toNat ≤ 3 ∧ e.crc = crc16 r []
  | .len => e.frameInv ∧ e.crc = crc16 r []
  | .cmd => e.frameInv ∧ e.crc = crc16 r [e.len]
  | .pay => e.frameInv ∧ e.idx.toNat < e.n.toNat ∧
      e.crc = crc16 r (e.len :: e.cmd :: e.payload.take e.idx.toNat)
  | .crcHi | .crcLo => e.frameInv ∧ e.crc = crc16 r (e.len :: e.cmd :: e.payload)

/-- The first `k` bytes of `PAY_RX` hold values, and `d_crc` is the CRC of `LEN`, `CMD` and those bytes. -/
def Fdec.covers (r : Bool) (d : Fdec) (k : Nat) : Prop :=
  ∃ payload, d.payRx.readFrom 0 k = some payload ∧ d.crc = crc16 r (d.len :: d.cmd :: payload)

/-- After the `LEN` byte, `d_len = d_n + 1` and `d_n` is at most 254 (10_state.md R13). -/
def Fdec.lenInv (d : Fdec) : Prop := d.n.toNat ≤ maxPayload ∧ d.len.toNat = d.n.toNat + 1

/-- FDEC's invariant: `d_cause` is NONE exactly outside `D_ERR` (10_state.md R18), the bounds of R16, and
`d_crc` is the CRC of the body bytes received so far (R13). -/
def Fdec.inv (r : Bool) (d : Fdec) : Prop :=
  Memory.inv d.payRx ∧ (d.cause = .none ↔ d.state ≠ .err) ∧
  match d.state with
  | .pre => d.idx.toNat ≤ 3 ∧ d.crc = crc16 r []
  | .len => d.crc = crc16 r []
  | .cmd => d.lenInv ∧ d.crc = crc16 r [d.len]
  | .pay => d.lenInv ∧ d.idx.toNat < d.n.toNat ∧ d.covers r d.idx.toNat
  | .crcHi | .crcLo => d.lenInv ∧ d.covers r d.n.toNat
  | .ok => d.lenInv ∧ d.covers r d.n.toNat ∧ d.rxcrc = d.crc
  | .err => True

/-- The machine's invariant. -/
def Inv (s : State) : Prop := s.enc.inv s.reflect ∧ s.dec.inv s.reflect

/-- No refusal is recorded (10_state.md R17, 60_exceptions.md R192). -/
def NoRefusalRecorded (s : State) : Prop := s.enc.status = 0

/-- FENC's run is over: it is back in `E_IDLE` (41_frame_encoder.md R118) and no RESET has left a partial frame in `TX`,
after which no end is clean (70_reset_and_hazards.md R226, 93_implementation_defined.md U5; log 24). -/
def EncoderDone (s : State) : Prop := s.enc.state = .idle ∧ s.partialTx = false

/-- The bytes are whole frames, one after another (20_memory.md R50). -/
def WholeFrames (r : Bool) (bytes : List Byte) : Prop :=
  ∃ frames : List (Byte × List Byte), (∀ f ∈ frames, f.2.length ≤ maxPayload) ∧
    bytes = (frames.map fun f => frameBytes r f.1 f.2).flatten

/-- As long as no frame was abandoned, `TX` is whole frames and then the bytes emitted so far of the frame in progress
(20_memory.md R50, 41_frame_encoder.md R113). -/
def TxInv (s : State) : Prop :=
  s.partialTx = false → ∃ whole, WholeFrames s.reflect whole ∧
    s.tx = whole ++ (frameBytes s.reflect s.enc.cmd s.enc.payload).take s.enc.progress

/-- FDEC's run is over: it has a verdict (42_frame_decoder.md R142). -/
def DecoderDone (s : State) : Prop := s.dec.state = .ok ∨ s.dec.state = .err

/-- A run of several operations, in order; it stops at the first fault or refusal. -/
def runOps : List Instr → State → Result
  | [], s => .next s
  | i :: is, s => Result.andThen (exec i s) (runOps is)

/-- A run of several steps of the exchange in flight, with nothing between them. -/
def exchangeSteps : Nat → State → Result
  | 0, s => .next s
  | k + 1, s => Result.andThen (advance s) (exchangeSteps k)

/-- A run of several steps of the machine. -/
def runSteps : Nat → State → Result
  | 0, s => .next s
  | k + 1, s => Result.andThen (step s) (runSteps k)

/-- Nothing outside FENC, `TX`, the answer and the exchange differs: what a frame leaves alone. -/
def SameOutsideFenc (s t : State) : Prop :=
  t.crc = s.crc ∧ t.dec = s.dec ∧ t.rx = s.rx ∧ t.cfg = s.cfg ∧ t.inputs = s.inputs ∧ t.readFault = s.readFault ∧
  t.partialTx = s.partialTx

/-- `u` is `s` after an accepted start of a command's frame, by its exchange, and nothing is emitted yet
(41_frame_encoder.md R111; log 1). -/
def FrameStarted (query : Bool) (cmd : Byte) (payload : List Byte) (s u : State) : Prop :=
  u.ret = .start .accepted ∧ u.exchange = .sending query s.tx.length ∧ u.tx = s.tx ∧ SameOutsideFenc s u ∧
  u.enc.state = .pre ∧ u.enc.idx = 0 ∧ u.enc.cmd = cmd ∧ u.enc.n.toNat = payload.length ∧
  u.enc.len.toNat = payload.length + 1 ∧ u.enc.crc = 0xFFFF ∧ u.enc.status = s.enc.status ∧ u.enc.payload = payload

/-- `t` is `s` with a whole frame appended to `TX` and returned, FENC idle and the gate free again. -/
def FrameIsOut (frame : List Byte) (s t : State) : Prop :=
  t.tx = s.tx ++ frame ∧ t.ret = .emitted frame ∧ t.exchange = .free ∧ t.enc.state = .idle ∧
  t.enc.status = s.enc.status ∧ SameOutsideFenc s t

/-- An operation of the unit FENC (30_encoding.md R75). -/
def isEncOp : Instr → Bool
  | .encStart _ _ | .encStep | .encStatus => true
  | .frame _ _ | .txctl _ | .freq _ | .mode _ | .status | .reset => false
  | .crcInit | .crcBit _ | .crcByte _ | .crcRead => false
  | .decStart | .decPush _ | .decEnd | .decResult => false

/-- An operation of the unit FDEC (30_encoding.md R75). -/
def isDecOp : Instr → Bool
  | .decStart | .decPush _ | .decEnd | .decResult => true
  | .frame _ _ | .txctl _ | .freq _ | .mode _ | .status | .reset => false
  | .crcInit | .crcBit _ | .crcByte _ | .crcRead => false
  | .encStart _ _ | .encStep | .encStatus => false

/-- An operation of the unit CRCG (30_encoding.md R75). -/
def isCrcOp : Instr → Bool
  | .crcInit | .crcBit _ | .crcByte _ | .crcRead => true
  | .frame _ _ | .txctl _ | .freq _ | .mode _ | .status | .reset => false
  | .encStart _ _ | .encStep | .encStatus => false
  | .decStart | .decPush _ | .decEnd | .decResult => false

end Sys2Proof.Machine
end

