-- ==== Sys2Proof/Certificates/Slice0/Obligations.lean ====
section
/-! DEFINITION. The statements for the provers, from the numbered rules of spec/. `s.reflect` is `CRC_REFLECT` of
the state's configuration, so every statement holds for both values of the parameter (00_scope.md R7) and for
every value of the OPEN parameters. -/

open Sys2Proof Sys2Proof.Machine

/-! ### Reset -/

/-- 10_state.md R35: every piece of the block's state after power-on; no byte of either buffer holds a value. -/
def Obligations.ResetLeavesTheTableOfValues : Prop :=
  State.reset.crc = 0xFFFF ∧
  State.reset.enc.state = .idle ∧ State.reset.enc.idx = 0 ∧ State.reset.enc.cmd = 0 ∧
  State.reset.enc.n = 0 ∧ State.reset.enc.len = 0 ∧ State.reset.enc.crc = 0xFFFF ∧
  State.reset.enc.status = 0 ∧
  State.reset.dec.state = .pre ∧ State.reset.dec.idx = 0 ∧ State.reset.dec.len = 0 ∧
  State.reset.dec.n = 0 ∧ State.reset.dec.cmd = 0 ∧ State.reset.dec.crc = 0xFFFF ∧
  State.reset.dec.rxcrc = 0 ∧ State.reset.dec.cause = .none ∧
  (∀ i, State.reset.enc.payTx.read i = none) ∧ (∀ i, State.reset.dec.payRx.read i = none) ∧
  State.reset.tx = []

/-- 70_reset_and_hazards.md R220: RESET is accepted in every state of every unit and writes every register at once; nothing
is emitted, `RX` is not touched. MODEL'S READING: what is in `TX` stays (log 4); MODEL'S CHOICE: the exchange in flight ends
(log 23) and a frame abandoned after its first byte is noted, for good (log 24). Two RESETs equal one. -/
def Obligations.ResetWritesEveryRegister : Prop :=
  ∀ s : State,
    (∃ p : Bool,
      exec .reset s = .next { s with
        crc := 0xFFFF, enc := Fenc.reset, dec := Fdec.reset, exchange := .free, partialTx := p, ret := .nothing } ∧
      (p = true ↔ s.partialTx = true ∨ (s.enc.state ≠ .idle ∧ (s.enc.state = .pre → s.enc.idx ≠ 0)))) ∧
    runOps [.reset, .reset] s = runOps [.reset] s

/-! ### CRCG -/

/-- 40_crc_generator.md R96, R99: CRC.INIT loads 0xFFFF and touches nothing else; CRC.READ returns the
register and changes nothing. -/
def Obligations.CrcInitAndReadEffects : Prop :=
  ∀ s : State,
    exec .crcInit s = .next { s with crc := 0xFFFF, ret := .nothing } ∧
    exec .crcRead s = .next { s with ret := .crc s.crc }

/-- 40_crc_generator.md R91, R97: CRC.BIT for both values of `CRC_REFLECT`, written out from the rule. -/
def Obligations.CrcBitShiftsTheRegister : Prop :=
  ∀ (d : Bool) (s : State),
    (s.reflect = true → exec (.crcBit d) s =
      .next { s with crc := if (s.crc.getLsbD 0 != d) then (s.crc >>> 1) ^^^ 0x8408 else s.crc >>> 1, ret := .nothing }) ∧
    (s.reflect = false → exec (.crcBit d) s =
      .next { s with crc := if (s.crc.getLsbD 15 != d) then (s.crc <<< 1) ^^^ 0x1021 else s.crc <<< 1, ret := .nothing })

/-- 40_crc_generator.md R98, R92: CRC.BYTE is the eight CRC.BITs of its bits, bit 0 first when `CRC_REFLECT`
is 1 and bit 7 first when it is 0; it writes nothing but `crc`, and completes in every state. -/
def Obligations.CrcByteIsEightBits : Prop :=
  ∀ (b : Byte) (s : State), ∃ c : Word,
    exec (.crcByte b) s = .next { s with crc := c, ret := .nothing } ∧
    (s.reflect = true → runOps ((List.range 8).map fun i => .crcBit (b.getLsbD i)) s =
      .next { s with crc := c, ret := .nothing }) ∧
    (s.reflect = false → runOps ((List.range 8).map fun i => .crcBit (b.getLsbD (7 - i))) s =
      .next { s with crc := c, ret := .nothing })

/-- 40_crc_generator.md R93, R96, R98, R99: CRC.INIT, then CRC.BYTE of each byte, then CRC.READ returns `crc16` of
the bytes; and without CRC.INIT the message of the register is continued (70_reset_and_hazards.md R223). -/
def Obligations.CrcRunReturnsCrc16 : Prop :=
  ∀ (m : List Byte) (s : State),
    runOps (.crcInit :: (m.map .crcByte ++ [.crcRead])) s =
      .next { s with crc := crc16 s.reflect m, ret := .crc (crc16 s.reflect m) } ∧
    ∀ m0 : List Byte, s.crc = crc16 s.reflect m0 →
      runOps (m.map .crcByte ++ [.crcRead]) s =
        .next { s with crc := crc16 s.reflect (m0 ++ m), ret := .crc (crc16 s.reflect (m0 ++ m)) }

/-- 40_crc_generator.md R94, R95: the three other forms of the byte step compute the same function, and the two tables are the
byte step from 0x0000, entry by entry. -/
def Obligations.ByteStepFormsAndTablesAgree : Prop :=
  (∀ (r : Bool) (c : Word) (b : Byte),
     crcByteXorFirst r c b = crcByte r c b ∧ crcByteTable r c b = crcByte r c b ∧
     crcByteParallel r c b = crcByte r c b) ∧
  tRef.length = 256 ∧ tNor.length = 256 ∧
  ∀ i : Byte, tRef[i.toNat]? = some (crcByte true 0 i) ∧ tNor[i.toNat]? = some (crcByte false 0 i)

/-- 40_crc_generator.md R100: the byte step is a bijection of the register for each byte, and for a fixed register
distinct bytes give distinct results. -/
def Obligations.ByteStepIsBijective : Prop :=
  ∀ r : Bool,
    (∀ b : Byte, Function.Bijective fun c : Word => crcByte r c b) ∧
    (∀ c : Word, Function.Injective fun b : Byte => crcByte r c b)

/-- 40_crc_generator.md R101 item 2, first sentence: messages that differ in exactly one byte have different
CRCs. -/
def Obligations.OneByteChangesTheCrc : Prop :=
  ∀ (r : Bool) (a z : List Byte) (x y : Byte), x ≠ y → crc16 r (a ++ x :: z) ≠ crc16 r (a ++ y :: z)

/-- 40_crc_generator.md R101 items 3 and 4: with the checksum appended big-endian the unreflected CRC is always
0; the reflected one is not a constant; two FF bytes bring both registers to 0. -/
def Obligations.ResidueOfAFrame : Prop :=
  (∀ m : List Byte, crc16 false (m ++ be16 (crc16 false m)) = 0) ∧
  crc16 true ([3, 1, 2, 3] ++ be16 (crc16 true [3, 1, 2, 3])) = 0x37B5 ∧
  (∃ m : List Byte, crc16 true (m ++ be16 (crc16 true m)) ≠ 0x37B5) ∧
  (∀ r : Bool, crc16 r [0xFF, 0xFF] = 0)

/-! ### FENC -/

/-- 41_frame_encoder.md R111, R114, R115: with FENC idle and at most 254 payload bytes the start is accepted; a start
while busy sets only `E_ERR_BUSY`, whatever its payload; a longer payload offered to an idle FENC sets only `E_ERR_LEN`. -/
def Obligations.EncStartEffects : Prop :=
  ∀ (cmd : Byte) (payload : List Byte) (s : State),
    (s.enc.state = .idle → payload.length ≤ 254 → ∃ m : Memory,
      exec (.encStart cmd payload) s =
        .next { s with
          enc := { s.enc with
            state := .pre, idx := 0, cmd := cmd, n := BitVec.ofNat 8 payload.length,
            len := BitVec.ofNat 8 (payload.length + 1), crc := 0xFFFF, payTx := m },
          ret := .start .accepted } ∧
      ∀ i, i < payload.length → m.read i = payload[i]?) ∧
    (s.enc.state ≠ .idle →
      exec (.encStart cmd payload) s =
        .next { s with enc := { s.enc with status := s.enc.status ||| 2#2 }, ret := .start .busy }) ∧
    (s.enc.state = .idle → 254 < payload.length →
      exec (.encStart cmd payload) s =
        .next { s with enc := { s.enc with status := s.enc.status ||| 1#2 }, ret := .start .length })

/-- 10_state.md R31 (DEDUCED for the bytes above the payload, log 7): after an accepted start no byte of
`PAY_TX` at or above `e_n` holds a value. -/
def Obligations.PayTxHoldsOnlyThePayload : Prop :=
  ∀ (cmd : Byte) (payload : List Byte) (s t : State),
    s.enc.state = .idle → payload.length ≤ 254 → exec (.encStart cmd payload) s = .next t →
    ∀ i, payload.length ≤ i → t.enc.payTx.read i = none

/-- 41_frame_encoder.md R112: ENC.STEP in each state of the sequencer. -/
def Obligations.EncStepEffects : Prop :=
  ∀ s : State,
    (s.enc.state = .idle → exec .encStep s = .next { s with ret := .idle }) ∧
    (s.enc.state = .pre → s.enc.idx ≠ 3 → exec .encStep s =
      .next { s with enc := { s.enc with idx := s.enc.idx + 1 }, tx := s.tx ++ [0xA5], ret := .byte 0xA5 false }) ∧
    (s.enc.state = .pre → s.enc.idx = 3 → exec .encStep s =
      .next { s with
        enc := { s.enc with idx := 0, state := .len }, tx := s.tx ++ [0xA5], ret := .byte 0xA5 false }) ∧
    (s.enc.state = .len → exec .encStep s =
      .next { s with
        enc := { s.enc with crc := crcByte s.reflect s.enc.crc s.enc.len, state := .cmd },
        tx := s.tx ++ [s.enc.len], ret := .byte s.enc.len false }) ∧
    (s.enc.state = .cmd → exec .encStep s =
      .next { s with
        enc := { s.enc with
          crc := crcByte s.reflect s.enc.crc s.enc.cmd, idx := 0,
          state := if s.enc.n = 0 then .crcHi else .pay },
        tx := s.tx ++ [s.enc.cmd], ret := .byte s.enc.cmd false }) ∧
    (∀ b : Byte, s.enc.state = .pay → s.enc.idx < s.enc.n → s.enc.payTx.read s.enc.idx.toNat = some b →
      (s.enc.idx = s.enc.n - 1 → exec .encStep s =
        .next { s with
          enc := { s.enc with crc := crcByte s.reflect s.enc.crc b, state := .crcHi },
          tx := s.tx ++ [b], ret := .byte b false }) ∧
      (s.enc.idx ≠ s.enc.n - 1 → exec .encStep s =
        .next { s with
          enc := { s.enc with crc := crcByte s.reflect s.enc.crc b, idx := s.enc.idx + 1 },
          tx := s.tx ++ [b], ret := .byte b false })) ∧
    (s.enc.state = .crcHi → exec .encStep s =
      .next { s with
        enc := { s.enc with state := .crcLo },
        tx := s.tx ++ [s.enc.crc.extractLsb' 8 8], ret := .byte (s.enc.crc.extractLsb' 8 8) false }) ∧
    (s.enc.state = .crcLo → exec .encStep s =
      .next { s with
        enc := { s.enc with state := .idle },
        tx := s.tx ++ [s.enc.crc.extractLsb' 0 8], ret := .byte (s.enc.crc.extractLsb' 0 8) true })

/-- 41_frame_encoder.md R119: ENC.STATUS returns `e_state` and `e_status` and changes nothing. -/
def Obligations.EncStatusReturnsStateAndFlags : Prop :=
  ∀ s : State, exec .encStatus s = .next { s with ret := .encStatus s.enc.state s.enc.status }

/-- 41_frame_encoder.md R113: after an accepted start the k-th ENC.STEP, for k from 1 to n + 8, emits the k-th byte of
`encode`; only the last carries the mark and returns FENC to `E_IDLE`; one more step emits nothing. -/
def Obligations.EncoderEmitsExactlyEncode : Prop :=
  ∀ (cmd : Byte) (payload : List Byte) (s : State),
    s.enc.state = .idle → payload.length ≤ 254 →
    (∀ k, k ≤ payload.length + 8 → ∃ t : State,
      runOps (.encStart cmd payload :: List.replicate k .encStep) s = .next t ∧
      t.tx = s.tx ++ (frameBytes s.reflect cmd payload).take k ∧
      (t.enc.state = .idle ↔ k = payload.length + 8) ∧
      (∀ b : Byte, 0 < k → (frameBytes s.reflect cmd payload)[k - 1]? = some b →
        t.ret = .byte b (decide (k = payload.length + 8)))) ∧
    (∃ t : State,
      runOps (.encStart cmd payload :: List.replicate (payload.length + 9) .encStep) s = .next t ∧
      t.tx = s.tx ++ frameBytes s.reflect cmd payload ∧ t.ret = .idle)

/-- 41_frame_encoder.md R113, last sentence, R115: operations of CRCG and FDEC, ENC.STATUS and starts (refused, since the frame
is not finished) may stand anywhere between the ENC.STEPs of a frame: after `k` steps the next ENC.STEP still emits the byte
`k` of `encode`, with the mark exactly on the last. -/
def Obligations.InterleavedOperationsLeaveTheFrame : Prop :=
  ∀ (cmd : Byte) (payload : List Byte) (is : List Instr) (s t : State),
    s.enc.state = .idle → payload.length ≤ 254 →
    (∀ i ∈ is, isEncOp i = true ∨ isDecOp i = true ∨ isCrcOp i = true) →
    is.count .encStep ≤ payload.length + 7 →
    runOps (.encStart cmd payload :: (is ++ [.encStep])) s = .next t →
    t.tx = s.tx ++ (frameBytes s.reflect cmd payload).take (is.count .encStep + 1) ∧
    ∃ b : Byte, (frameBytes s.reflect cmd payload)[is.count .encStep]? = some b ∧
      t.ret = .byte b (decide (is.count .encStep = payload.length + 7))

/-- 20_memory.md R46, 41_frame_encoder.md R110: the layout of a frame, offset by offset; above 254
payload bytes there is no frame. -/
def Obligations.FrameLayout : Prop :=
  (∀ (r : Bool) (cmd : Byte) (payload : List Byte), 254 < payload.length → encodeFrame r cmd payload = none) ∧
  ∀ (r : Bool) (cmd : Byte) (payload : List Byte), payload.length ≤ 254 →
    encodeFrame r cmd payload = some (frameBytes r cmd payload) ∧
    (frameBytes r cmd payload).length = payload.length + 8 ∧
    (∀ i, i < 4 → (frameBytes r cmd payload)[i]? = some 0xA5) ∧
    (∃ len : Byte, (frameBytes r cmd payload)[4]? = some len ∧ len.toNat = payload.length + 1 ∧
      (frameBytes r cmd payload)[5]? = some cmd ∧
      (∀ i, i < payload.length → (frameBytes r cmd payload)[6 + i]? = payload[i]?) ∧
      (frameBytes r cmd payload)[6 + payload.length]? =
        some ((crc16 r (len :: cmd :: payload)).extractLsb' 8 8) ∧
      (frameBytes r cmd payload)[7 + payload.length]? =
        some ((crc16 r (len :: cmd :: payload)).extractLsb' 0 8))

/-! ### FDEC -/

/-- 42_frame_decoder.md R131: DEC.START in every state. -/
def Obligations.DecStartEffect : Prop :=
  ∀ s : State, exec .decStart s =
    .next { s with
      dec := { s.dec with
        state := .pre, idx := 0, cause := .none, len := 0, n := 0, cmd := 0, crc := 0xFFFF, rxcrc := 0 },
      ret := .nothing }

/-- 42_frame_decoder.md R132: DEC.PUSH in each state of the sequencer. What becomes of the `RX` stream is another
statement (`PushTakesOneRxByte`). -/
def Obligations.DecPushEffects : Prop :=
  ∀ (b : Byte) (s : State), ∃ rx : List Byte,
    (s.dec.state = .pre → b ≠ 0xA5 → exec (.decPush b) s =
      .next { s with dec := { s.dec with state := .err, cause := .preamble }, rx := rx, ret := .nothing }) ∧
    (s.dec.state = .pre → b = 0xA5 → s.dec.idx = 3 → exec (.decPush b) s =
      .next { s with dec := { s.dec with idx := 0, state := .len }, rx := rx, ret := .nothing }) ∧
    (s.dec.state = .pre → b = 0xA5 → s.dec.idx ≠ 3 → exec (.decPush b) s =
      .next { s with dec := { s.dec with idx := s.dec.idx + 1 }, rx := rx, ret := .nothing }) ∧
    (s.dec.state = .len → b = 0 → exec (.decPush b) s =
      .next { s with dec := { s.dec with state := .err, cause := .length }, rx := rx, ret := .nothing }) ∧
    (s.dec.state = .len → b ≠ 0 → exec (.decPush b) s =
      .next { s with
        dec := { s.dec with len := b, n := b - 1, crc := crcByte s.reflect s.dec.crc b, state := .cmd },
        rx := rx, ret := .nothing }) ∧
    (s.dec.state = .cmd → exec (.decPush b) s =
      .next { s with
        dec := { s.dec with
          cmd := b, crc := crcByte s.reflect s.dec.crc b, idx := 0,
          state := if s.dec.n = 0 then .crcHi else .pay },
        rx := rx, ret := .nothing }) ∧
    (s.dec.state = .pay → s.dec.idx.toNat ≤ 253 → ∃ m : Memory,
      m.read s.dec.idx.toNat = some b ∧ (∀ i, i ≠ s.dec.idx.toNat → m.read i = s.dec.payRx.read i) ∧
      (s.dec.idx = s.dec.n - 1 → exec (.decPush b) s =
        .next { s with
          dec := { s.dec with payRx := m, crc := crcByte s.reflect s.dec.crc b, state := .crcHi },
          rx := rx, ret := .nothing }) ∧
      (s.dec.idx ≠ s.dec.n - 1 → exec (.decPush b) s =
        .next { s with
          dec := { s.dec with payRx := m, crc := crcByte s.reflect s.dec.crc b, idx := s.dec.idx + 1 },
          rx := rx, ret := .nothing })) ∧
    (s.dec.state = .crcHi → exec (.decPush b) s =
      .next { s with
        dec := { s.dec with rxcrc := b ++ s.dec.rxcrc.extractLsb' 0 8, state := .crcLo },
        rx := rx, ret := .nothing }) ∧
    (s.dec.state = .crcLo → s.dec.crc = s.dec.rxcrc.extractLsb' 8 8 ++ b → exec (.decPush b) s =
      .next { s with
        dec := { s.dec with rxcrc := s.dec.rxcrc.extractLsb' 8 8 ++ b, state := .ok },
        rx := rx, ret := .nothing }) ∧
    (s.dec.state = .crcLo → s.dec.crc ≠ s.dec.rxcrc.extractLsb' 8 8 ++ b → exec (.decPush b) s =
      .next { s with
        dec := { s.dec with rxcrc := s.dec.rxcrc.extractLsb' 8 8 ++ b, state := .err, cause := .checksum },
        rx := rx, ret := .nothing }) ∧
    (s.dec.state = .ok ∨ s.dec.state = .err → exec (.decPush b) s = .next { s with rx := rx, ret := .nothing })

/-- The model's reading of 20_memory.md R45 (DEDUCED, log 3): every DEC.PUSH takes one byte off `RX`, if one
waits, whatever the state of FDEC. -/
def Obligations.PushTakesOneRxByte : Prop :=
  ∀ (b : Byte) (s t : State), exec (.decPush b) s = .next t → t.rx = s.rx.tail

/-- 42_frame_decoder.md R133: DEC.END in each state. -/
def Obligations.DecEndEffect : Prop :=
  ∀ s : State,
    (s.dec.state ≠ .ok → s.dec.state ≠ .err → exec .decEnd s =
      .next { s with dec := { s.dec with state := .err, cause := .short }, ret := .nothing }) ∧
    (s.dec.state = .ok ∨ s.dec.state = .err → exec .decEnd s = .next { s with ret := .nothing })

/-- 42_frame_decoder.md R134: DEC.RESULT returns the command and payload in `D_OK`, only the cause in `D_ERR`,
`pending` otherwise, and changes nothing. -/
def Obligations.DecResultReturnsTheVerdict : Prop :=
  ∀ s : State,
    (∀ payload : List Byte, s.dec.state = .ok → payload.length = s.dec.n.toNat →
      (∀ i, i < payload.length → s.dec.payRx.read i = payload[i]?) →
      exec .decResult s = .next { s with ret := .decoded (.ok s.dec.cmd payload) }) ∧
    (s.dec.state = .err → exec .decResult s = .next { s with ret := .decoded (.malformed s.dec.cause) }) ∧
    (s.dec.state ≠ .ok → s.dec.state ≠ .err → exec .decResult s = .next { s with ret := .pending })

/-- 10_state.md R31 and 93_implementation_defined.md U4: ENC.STEP and DEC.RESULT fault exactly where they would read a buffer byte
that holds no value. MODEL'S CHOICE for register values no run reaches (log 9): DEC.PUSH faults exactly where it would write outside
index 0..253 of `PAY_RX`; 20_memory.md R47 says that such an access is never formed, and names no fault. -/
def Obligations.UnitsFaultOnlyAtTheBuffers : Prop :=
  (∀ s : State,
     exec .encStep s = .fault .payTxNoValue ↔
       s.enc.state = .pay ∧ (s.enc.n ≤ s.enc.idx ∨ s.enc.payTx.read s.enc.idx.toNat = none)) ∧
  (∀ s : State,
     exec .decResult s = .fault .payRxNoValue ↔
       s.dec.state = .ok ∧ ∃ i, i < s.dec.n.toNat ∧ s.dec.payRx.read i = none) ∧
  ∀ (b : Byte) (s : State),
    exec (.decPush b) s = .fault .payRxIndex ↔ s.dec.state = .pay ∧ 253 < s.dec.idx.toNat

/-- 42_frame_decoder.md R135: DEC.START, DEC.PUSH of each byte, DEC.END, DEC.RESULT return exactly `decode` of the
bytes, from every state; the other units and `TX` are untouched. -/
def Obligations.DecoderAgreesWithDecode : Prop :=
  ∀ (buf : List Byte) (s : State), ∃ t : State,
    runOps (.decStart :: (buf.map .decPush ++ [.decEnd, .decResult])) s = .next t ∧
    t.ret = .decoded (decodeFrame s.reflect buf) ∧
    t.crc = s.crc ∧ t.enc = s.enc ∧ t.tx = s.tx ∧ t.cfg = s.cfg ∧ t.inputs = s.inputs ∧
    t.readFault = s.readFault ∧ t.exchange = s.exchange ∧ t.partialTx = s.partialTx

/-- 42_frame_decoder.md R135, second sentence: a verdict reached after a prefix is final; it is `decode` of the whole
buffer whatever the remaining bytes are. -/
def Obligations.EarlyVerdictIsDecodeOfTheWhole : Prop :=
  ∀ (pre rest : List Byte) (s t : State),
    runOps (.decStart :: pre.map .decPush) s = .next t → (t.dec.state = .ok ∨ t.dec.state = .err) →
    ∃ u : State, exec .decResult t = .next u ∧ u.ret = .decoded (decodeFrame s.reflect (pre ++ rest))

/-- 42_frame_decoder.md R150: decoding an encoded frame gives the command and the payload back, with any bytes
appended. -/
def Obligations.DecodeOfEncode : Prop :=
  ∀ (r : Bool) (cmd : Byte) (payload t : List Byte), payload.length ≤ 254 →
    decodeFrame r (frameBytes r cmd payload ++ t) = .ok cmd payload

/-- 42_frame_decoder.md R152: every proper prefix of a frame is SHORT. -/
def Obligations.TruncatedFrameIsShort : Prop :=
  ∀ (r : Bool) (cmd : Byte) (payload : List Byte) (k : Nat), payload.length ≤ 254 →
    k < (frameBytes r cmd payload).length →
    decodeFrame r ((frameBytes r cmd payload).take k) = .malformed .short

/-- 42_frame_decoder.md R137: bytes after a frame that decodes are ignored. -/
def Obligations.TrailingBytesAreIgnored : Prop :=
  ∀ (r : Bool) (frame t : List Byte) (cmd : Byte) (payload : List Byte),
    decodeFrame r frame = .ok cmd payload → decodeFrame r (frame ++ t) = .ok cmd payload

/-- 42_frame_decoder.md R138, R139: the preamble is anchored at index 0; a LEN byte of 0 is LENGTH whatever follows. -/
def Obligations.PreambleAndLengthAreCheckedFirst : Prop :=
  (∀ (r : Bool) (buf : List Byte) (i : Nat) (b : Byte),
     i < 4 → buf[i]? = some b → b ≠ 0xA5 → decodeFrame r buf = .malformed .preamble) ∧
  ∀ (r : Bool) (rest : List Byte),
    decodeFrame r (0xA5 :: 0xA5 :: 0xA5 :: 0xA5 :: 0x00 :: rest) = .malformed .length

/-- 42_frame_decoder.md R140, R141: a buffer with a good preamble, a LEN of at least 1 and enough bytes is Ok exactly
when both checksum bytes match the recomputed CRC, whatever the command byte is. -/
def Obligations.ChecksumDecides : Prop :=
  ∀ (r : Bool) (len cmd hi lo : Byte) (payload t : List Byte),
    len.toNat = payload.length + 1 →
    (crc16 r (len :: cmd :: payload) = hi ++ lo →
      decodeFrame r (0xA5 :: 0xA5 :: 0xA5 :: 0xA5 :: len :: cmd :: (payload ++ hi :: lo :: t)) = .ok cmd payload) ∧
    (crc16 r (len :: cmd :: payload) ≠ hi ++ lo →
      decodeFrame r (0xA5 :: 0xA5 :: 0xA5 :: 0xA5 :: len :: cmd :: (payload ++ hi :: lo :: t)) =
        .malformed .checksum)

/-- 42_frame_decoder.md R151: the outcome of changing one byte of a frame, row by row of the rule's table; the exception
of its fourth row exists. -/
def Obligations.OneByteMutationTable : Prop :=
  (∀ (r : Bool) (cmd : Byte) (payload : List Byte) (i : Nat) (old v : Byte),
    payload.length ≤ 254 → (frameBytes r cmd payload)[i]? = some old → v ≠ old →
    let mutant := decodeFrame r ((frameBytes r cmd payload).set i v)
    let frame := frameBytes r cmd payload
    (i < 4 → mutant = .malformed .preamble) ∧
    (i = 4 → v = 0 → mutant = .malformed .length) ∧
    (i = 4 → payload.length + 1 < v.toNat → mutant = .malformed .short) ∧
    (i = 4 → 0 < v.toNat → v.toNat < payload.length + 1 →
      (crc16 r (v :: (frame.drop 5).take v.toNat) = frame.getD (5 + v.toNat) 0 ++ frame.getD (6 + v.toNat) 0 →
        mutant = .ok cmd (payload.take (v.toNat - 1))) ∧
      (crc16 r (v :: (frame.drop 5).take v.toNat) ≠ frame.getD (5 + v.toNat) 0 ++ frame.getD (6 + v.toNat) 0 →
        mutant = .malformed .checksum)) ∧
    (5 ≤ i → mutant = .malformed .checksum)) ∧
  decodeFrame true ((frameBytes true 0x01 [0xF8, 0xE9]).set 4 0x01) = .ok 0x01 [] ∧
  decodeFrame false ((frameBytes false 0x01 [0x3E, 0x1F]).set 4 0x01) = .ok 0x01 []

/-! ### Command frames -/

/-- 41_frame_encoder.md R110, 30_encoding.md R77: FRAME with FENC idle starts its frame, and the steps of its exchange emit
exactly `encode`, one byte each (log 1), end in `E_IDLE` and touch nothing outside FENC and `TX`. -/
def Obligations.FrameCommandEmitsEncode : Prop :=
  ∀ (cmd : Byte) (payload : List Byte) (s : State), s.enc.state = .idle → payload.length ≤ 254 →
    ∃ u t : State, exec (.frame cmd payload) s = .next u ∧ FrameStarted false cmd payload s u ∧
      exchangeSteps (payload.length + 8) u = .next t ∧ FrameIsOut (frameBytes s.reflect cmd payload) s t ∧
      ∀ k, k ≤ payload.length + 8 → ∃ v : State, exchangeSteps k u = .next v ∧
        v.tx = s.tx ++ (frameBytes s.reflect cmd payload).take k

/-- 43_command_frames.md R161, R162, R163: TXCTL, FREQ and MODE with FENC idle start their frames, and the steps of their
exchanges (log 1) emit the bytes the rules give; nothing outside FENC and `TX` changes (no reply is read). -/
def Obligations.SetCommandsEmitTheirFrames : Prop :=
  ∀ s : State, s.enc.state = .idle →
    (∀ on : Bool, ∃ u t : State, exec (.txctl on) s = .next u ∧
      FrameStarted false 0x07 [if on then 0x00 else 0x01] s u ∧ exchangeSteps 9 u = .next t ∧
      FrameIsOut ([0xA5, 0xA5, 0xA5, 0xA5, 0x02, 0x07, if on then 0x00 else 0x01] ++
        be16 (crc16 s.reflect [0x02, 0x07, if on then 0x00 else 0x01])) s t) ∧
    (∀ hz : Hz, ∃ u t : State, exec (.freq hz) s = .next u ∧
      FrameStarted false 0x09 (be32 hz ++ be32 hz) s u ∧ exchangeSteps 16 u = .next t ∧
      FrameIsOut ([0xA5, 0xA5, 0xA5, 0xA5, 0x09, 0x09] ++ (be32 hz ++ be32 hz) ++
        be16 (crc16 s.reflect (0x09 :: 0x09 :: (be32 hz ++ be32 hz)))) s t) ∧
    (∀ id : Byte, id.toNat ≤ 8 → ∃ u t : State, exec (.mode id) s = .next u ∧
      FrameStarted false 0x0A [id, id] s u ∧ exchangeSteps 10 u = .next t ∧
      FrameIsOut ([0xA5, 0xA5, 0xA5, 0xA5, 0x03, 0x0A, id, id] ++ be16 (crc16 s.reflect [0x03, 0x0A, id, id])) s t)

/-- 41_frame_encoder.md R111, R114, R115 for the command operations (log 15): with FENC busy they set only `E_ERR_BUSY`
and send nothing; FRAME with a payload over 254 bytes sets only `E_ERR_LEN`. No exchange begins, and none in flight is
disturbed. -/
def Obligations.CommandsAreRefusedLikeTheirStart : Prop :=
  ∀ s : State,
    (s.enc.state ≠ .idle →
      (∀ i : Instr, i = .status ∨ (∃ on, i = .txctl on) ∨ (∃ hz, i = .freq hz) ∨ (∃ c p, i = .frame c p) ∨
          (∃ id : Byte, id.toNat ≤ 8 ∧ i = .mode id) →
        exec i s = .next { s with enc := { s.enc with status := s.enc.status ||| 2#2 }, ret := .start .busy })) ∧
    (s.enc.state = .idle → ∀ (cmd : Byte) (payload : List Byte), 254 < payload.length →
      exec (.frame cmd payload) s =
        .next { s with enc := { s.enc with status := s.enc.status ||| 1#2 }, ret := .start .length })

/-- 30_encoding.md R77, 43_command_frames.md R164, R165: each step of an exchange is one unit operation, run as `exec` runs it
(log 1), or the return of a working serial read (log 2; a failing one is in `StatusQueriesAndParses`); the last ENC.STEP and the
verdict end the exchange or lead to its next half. MODEL'S CHOICES: a pending DEC.RESULT leaves the exchange where it is, to ask
again (log 23), and a push takes whatever heads `RX` up to the count of the read (log 25). -/
def Obligations.ExchangeStepsAreUnitOperations : Prop :=
  ∀ s u : State,
    (s.exchange = .free → advance s = .next s) ∧
    (∀ (query : Bool) (start : Nat), s.exchange = .sending query start → exec .encStep s = .next u →
      (u.enc.state ≠ .idle → advance s = .next u) ∧
      (u.enc.state = .idle → query = true → advance s = .next { u with exchange := .reading }) ∧
      (u.enc.state = .idle → query = false →
        advance s = .next { u with exchange := .free, ret := .emitted (u.tx.drop start) })) ∧
    (s.exchange = .reading → s.readFault = false → exec .decStart s = .next u →
      advance s = .next { u with exchange := .pushing (min s.cfg.rxWindow s.rx.length) }) ∧
    (∀ (k : Nat) (b : Byte) (rest : List Byte), s.exchange = .pushing (k + 1) → s.rx = b :: rest →
      exec (.decPush b) s = .next u → advance s = .next { u with exchange := .pushing k }) ∧
    (∀ k : Nat, s.exchange = .pushing k → (k = 0 ∨ s.rx = []) → exec .decEnd s = .next u →
      advance s = .next { u with exchange := .result }) ∧
    (s.exchange = .result → exec .decResult s = .next u →
      (u.ret = .pending → advance s = .next u) ∧
      (∀ d : Decoded, u.ret = .decoded d →
        advance s = .next { u with
          exchange := .free, ret := .status (parseStatus s.cfg d).1 (parseStatus s.cfg d).2 }))

/-- 00_scope.md R3, 41_frame_encoder.md R113, 70_reset_and_hazards.md R225, for the operation FRAME: the device, the operations of CRCG and
FDEC and ENC.STATUS may stand anywhere between the steps of its frame: after `k` turns exactly the first `k` bytes of `encode`
are out, and the gate is free exactly from turn `n + 8` on. MODEL'S READING: that a turn is one ENC.STEP of the exchange and that
the exchange ends with its last byte (log 1), and that the moves come in the order of `inputs` (log 13, log 22). -/
def Obligations.OtherAgentsLeaveTheCommandsFrame : Prop :=
  ∀ (cmd : Byte) (payload : List Byte) (moves rest : List Input) (s t : State),
    s.enc.state = .idle → s.exchange = .free → payload.length ≤ 254 →
    s.inputs = .op (.frame cmd payload) :: (moves ++ rest) →
    (∀ m ∈ moves, m = .turn ∨ m = .channelReadFault ∨ (∃ b, m = .device b) ∨
      (∃ i, m = .op i ∧ (isDecOp i = true ∨ isCrcOp i = true ∨ i = .encStatus))) →
    runSteps (moves.length + 1) s = .next t →
    t.tx = s.tx ++ (frameBytes s.reflect cmd payload).take (moves.count .turn) ∧ t.inputs = rest ∧
    (t.exchange = .free ↔ payload.length + 8 ≤ moves.count .turn)

/-- 93_implementation_defined.md U7 (log 14): MODE with an identifier above 8 is refused by name, and only then. -/
def Obligations.ModeRefusesIdentifiersAboveEight : Prop :=
  ∀ (id : Byte) (s : State),
    (exec (.mode id) s = .refused .modeIdOutOfDomain ↔ 8 < id.toNat)

/-- 43_command_frames.md R164, R165 (the reply is what waits in `RX` when the read returns: log 2): STATUS with FENC idle starts
the query frame, its own step answering what ENC.START answers and the rest following in the steps of its exchange (MODEL'S
CHOICE, log 1); eight steps send it; whatever bytes the device adds before the read returns, up to `RX_WINDOW` bytes are
taken, one a step, and the answer is what they parse to. A read that fails instead is `ChannelIOError` (60_exceptions.md R193; log 18):
FDEC is not run, nothing is taken from `RX`, and the exchange ends. -/
def Obligations.StatusQueriesAndParses : Prop :=
  ∀ s : State, s.enc.state = .idle →
    ∃ u v : State, exec .status s = .next u ∧ FrameStarted true 0x0B [] s u ∧ exchangeSteps 8 u = .next v ∧
      v.tx = s.tx ++ ([0xA5, 0xA5, 0xA5, 0xA5, 0x01, 0x0B] ++ be16 (crc16 s.reflect [0x01, 0x0B])) ∧
      v.exchange = .reading ∧ v.enc.state = .idle ∧ v.enc.status = s.enc.status ∧ SameOutsideFenc s v ∧
      (v.readFault = false → ∀ reply : List Byte,
        let waiting := s.rx ++ reply
        ∃ t : State, exchangeSteps ((waiting.take s.cfg.rxWindow).length + 3) { v with rx := waiting } = .next t ∧
          t.ret = .status (parseStatus s.cfg (decodeFrame s.reflect (waiting.take s.cfg.rxWindow))).1
            (parseStatus s.cfg (decodeFrame s.reflect (waiting.take s.cfg.rxWindow))).2 ∧
          t.rx = waiting.drop s.cfg.rxWindow ∧ (t.dec.state = .ok ∨ t.dec.state = .err) ∧
          t.exchange = .free ∧ t.tx = v.tx ∧ t.enc = v.enc ∧ t.crc = s.crc ∧ t.cfg = s.cfg ∧
          t.inputs = s.inputs ∧ t.readFault = false ∧ t.partialTx = s.partialTx) ∧
      exchangeSteps 1 { v with readFault := true } =
        .next { v with readFault := false, exchange := .free, ret := .channelIOError }

/-- 43_command_frames.md R165: a malformed reply and a payload too short for either field give USB and frequency 0
(R166); otherwise the mode named by the byte at the mode offset, and the big-endian number at the frequency offset. -/
def Obligations.ReplyParsesOrFallsBack : Prop :=
  ∀ (cfg : Config) (reply : List Byte),
    (∀ cause : Cause, decodeFrame cfg.crcReflect reply = .malformed cause →
      parseStatus cfg (decodeFrame cfg.crcReflect reply) = (.usb, 0)) ∧
    (∀ (cmd : Byte) (payload : List Byte), decodeFrame cfg.crcReflect reply = .ok cmd payload →
      (payload.length ≤ cfg.statusModeOffset ∨
        payload.length < cfg.statusFreqOffset + cfg.statusFreqWidth →
        parseStatus cfg (decodeFrame cfg.crcReflect reply) = (.usb, 0)) ∧
      (∀ (id : Byte) (before freq after : List Byte),
        payload[cfg.statusModeOffset]? = some id → payload = before ++ freq ++ after →
        before.length = cfg.statusFreqOffset → freq.length = cfg.statusFreqWidth →
        (parseStatus cfg (decodeFrame cfg.crcReflect reply)).1 = modeOfId cfg id.toNat ∧
        (parseStatus cfg (decodeFrame cfg.crcReflect reply)).2 =
          ((List.range freq.length).map fun k =>
            (freq.getD k 0).toNat * 256 ^ (freq.length - 1 - k)).sum))

/-- 43_command_frames.md R167, R168, R169: for any `MODE_ID` table of the nine modes with USB first, the lookups follow the
table: the mode the table has at an identifier, its name and its identifier belong together. They are inverses; the name lookup ignores
letter case; an unknown name gives 0 and an unknown identifier gives USB. -/
def Obligations.ModeLookupsAreInverse : Prop :=
  ∀ cfg : Config, cfg.wellFormed = true →
    (∀ (id : Nat) (m : Mode), cfg.modes[id]? = some m →
      id < 9 ∧ modeOfId cfg id = m ∧ modeIdOf cfg m = id ∧ modeNameToId cfg (modeName m) = id) ∧
    (∀ id, id < 9 → ∃ m : Mode, cfg.modes[id]? = some m) ∧ cfg.modes[0]? = some .usb ∧
    (∀ id, id < 9 → modeNameToId cfg (modeName (modeOfId cfg id)) = id) ∧
    (∀ m : Mode, modeOfId cfg (modeIdOf cfg m) = m ∧ modeIdOf cfg m < 9) ∧
    (∀ a b : List Byte, a.map upperCase = b.map upperCase → modeNameToId cfg a = modeNameToId cfg b) ∧
    (∀ name : List Byte, (∀ m : Mode, modeName m ≠ name.map upperCase) → modeNameToId cfg name = 0) ∧
    (∀ id, 9 ≤ id → modeOfId cfg id = .usb)

/-! ### Encoding -/

/-- 30_encoding.md R60 to R68, 42_frame_decoder.md R150: the bytes of a well-formed instruction decode, checksum
included, to the instruction; a hand-written FRAME with a command row's operands is that row (R81, log 11). The decoder of the
listings a step runs reads the same instruction and leaves the two checksum bytes and whatever follows (log 10). -/
def Obligations.DecodeOfEncodedInstruction : Prop :=
  ∀ (r : Bool) (i : Instr) (bs : List Byte), i.wellFormed = true → encodeInstr r i = some bs →
    decodeWire r bs = .ok i.specific ∧ encodeInstr r i.specific = some bs ∧
    (∀ t : List Byte, decodeListing (bs ++ t) = .ok (i.specific, bs.drop (bs.length - 2) ++ t)) ∧
    ((∀ c p, i ≠ .frame c p) → i.specific = i) ∧
    (∀ c p, i = .frame c p → c ≠ 0x07 → c ≠ 0x09 → c ≠ 0x0A → c ≠ 0x0B → i.specific = i)

/-- 30_encoding.md R60, R67 for the listings a requester hands over, whose checksum bytes are not read (MODEL'S CHOICE, log 10):
a listing is refused exactly by the cause the rule gives, or read as the row of its command and `LEN - 1` payload bytes. -/
def Obligations.ListingIsReadOrRefusedByCause : Prop :=
  ∀ bs : List Byte,
    (∀ (i : Nat) (b : Byte), i < 4 → bs[i]? = some b → b ≠ 0xA5 → decodeListing bs = .error .preamble) ∧
    ((∀ b ∈ bs.take 4, b = 0xA5) →
      (bs.length ≤ 4 → decodeListing bs = .error .short) ∧
      (∀ (len : Byte) (rest : List Byte), bs.drop 4 = len :: rest →
        (len = 0 → decodeListing bs = .error .length) ∧
        (len ≠ 0 → rest.length < len.toNat → decodeListing bs = .error .short) ∧
        (∀ (cmd : Byte) (payload left : List Byte), len.toNat = payload.length + 1 →
          rest = cmd :: (payload ++ left) → decodeListing bs = .ok (classify cmd payload, left))))

/-- 30_encoding.md R65 to R68: naming the row of a command and payload loses neither: the row's operands give the same
command byte and payload back. -/
def Obligations.RowKeepsCommandAndPayload : Prop :=
  ∀ (cmd : Byte) (payload : List Byte), commandOf (classify cmd payload) = some (cmd, payload)

/-- 30_encoding.md R81: the header of an encoded instruction belongs to the instruction's row and to the generic row. -/
def Obligations.EncodedHeaderBelongsToItsRow : Prop :=
  ∀ (r : Bool) (i : Instr) (bs : List Byte), i.wellFormed = true → encodeInstr r i = some bs →
    (∃ k m, rowMask i = some k ∧ rowMatch i = some m ∧ headerWord bs &&& k = m) ∧
    headerWord bs &&& 0xFFFFFFFF0000 = 0xA5A5A5A50000

/-- 30_encoding.md R65, R67, 43_command_frames.md R161 to R164: frames written out byte by byte from the spec decode
to what they stand for, and the illegal ones are refused by cause. A sanity statement. -/
def Obligations.WrittenOutFramesDecode : Prop :=
  decodeWire true [0xA5, 0xA5, 0xA5, 0xA5, 0x03, 0x01, 0x02, 0x03, 0x7D, 0x1B] = .ok (.frame 0x01 [0x02, 0x03]) ∧
  decodeWire true [0xA5, 0xA5, 0xA5, 0xA5, 0x02, 0x07, 0x00, 0xC1, 0x83] = .ok (.txctl true) ∧
  decodeWire true [0xA5, 0xA5, 0xA5, 0xA5, 0x09, 0x09, 0x00, 0xBC, 0x61, 0x4E, 0x00, 0xBC, 0x61, 0x4E, 0xD1, 0x65] =
    .ok (.freq 12345678) ∧
  decodeWire true [0xA5, 0xA5, 0xA5, 0xA5, 0x03, 0x0A, 0x03, 0x03, 0x4D, 0x65] = .ok (.mode 3) ∧
  decodeWire true [0xA5, 0xA5, 0xA5, 0xA5, 0x01, 0x0B, 0x57, 0xB3] = .ok .status ∧
  decodeWire true [0xA5, 0xA5, 0xA5, 0xA5, 0x02, 0x07, 0x00, 0x00, 0x00] = .error .checksum ∧
  decodeWire true [0xA5, 0xA5, 0xA5, 0xA5, 0x00, 0x0F, 0x87] = .error .length ∧
  decodeWire true [0xA4, 0xA5, 0xA5, 0xA5, 0x01, 0x0B, 0x57, 0xB3] = .error .preamble

/-! ### Steps and invariants -/

/-- One step is the next waiting move: an operation, or a listing that decodes, runs as `exec` of that instruction in
the state without the move, but a command operation waits while an exchange holds the gate, and the exchange goes on
(log 23); the device's byte joins `RX`; a turn, or nothing waiting, is the exchange's own next step (log 13, log 19, log 22). -/
def Obligations.StepRunsTheDecodedInstruction : Prop :=
  ∀ (s : State) (rest : List Input),
    (∀ i : Instr, s.inputs = .op i :: rest →
      (commandOf i = none ∨ s.exchange = .free → step s = exec i { s with inputs := rest }) ∧
      (commandOf i ≠ none → s.exchange ≠ .free → step s = advance s)) ∧
    (∀ (bytes left : List Byte) (i : Instr), s.inputs = .listing bytes :: rest →
      decodeListing bytes = .ok (i, left) →
      (s.exchange = .free → step s = exec i { s with inputs := rest }) ∧
      (s.exchange ≠ .free → step s = advance s)) ∧
    (∀ (bytes : List Byte) (why : Cause), s.inputs = .listing bytes :: rest →
      decodeListing bytes = .error why → step s = .refused (.badListing why)) ∧
    (∀ b : Byte, s.inputs = .device b :: rest → step s = .next { s with inputs := rest, rx := s.rx ++ [b] }) ∧
    (s.inputs = .channelReadFault :: rest → step s = .next { s with inputs := rest, readFault := true }) ∧
    (s.inputs = .turn :: rest → step s = advance { s with inputs := rest }) ∧
    (s.inputs = [] → step s = advance s) ∧ (s.inputs = [] → s.exchange = .free → step s = .next s)

/-- 00_scope.md R3: one step of the machine moves at most one byte: it emits at most one, and takes or receives at most
one, and never both. -/
def Obligations.OneByteAStep : Prop :=
  ∀ s t : State, step s = .next t →
    (t.tx = s.tx ∧ (t.rx = s.rx ∨ t.rx = s.rx.tail ∨ ∃ b : Byte, t.rx = s.rx ++ [b])) ∨
    (t.rx = s.rx ∧ ∃ b : Byte, t.tx = s.tx ++ [b])

/-- The invariants hold after power-on: `Inv` (10_state.md R12, R13, R16, R18, R30; 41_frame_encoder.md R116), and `TX` is whole
frames with none abandoned (20_memory.md R50). -/
def Obligations.InvariantHoldsAtReset : Prop := Inv State.reset ∧ TxInv State.reset ∧ EncoderDone State.reset

/-- Every step keeps the invariant: buffers in canonical form with indexes 0..253, `e_len = e_n + 1`, index bounds,
`d_cause` NONE exactly outside `D_ERR`, and the private CRC registers equal to the CRC of the body so far. -/
def Obligations.StepKeepsTheInvariant : Prop :=
  ∀ s t : State, Inv s → step s = .next t → Inv t

/-- 20_memory.md R47, 10_state.md R16: from a state that meets the invariant no step faults. -/
def Obligations.NoStepFaultsUnderTheInvariant : Prop :=
  ∀ (s : State) (f : Fault), Inv s → step s ≠ .fault f

/-- 20_memory.md R55: a configuration parameter keeps one value for the whole run. -/
def Obligations.ConfigurationNeverChanges : Prop :=
  ∀ s t : State, step s = .next t → t.cfg = s.cfg

/-- 10_state.md R17, 60_exceptions.md R198: the flags are sticky: only RESET clears one, and no step of an exchange does. -/
def Obligations.FlagsAreClearedOnlyByReset : Prop :=
  ∀ s t : State, ((∃ i : Instr, i ≠ .reset ∧ exec i s = .next t) ∨ advance s = .next t) →
    (eErrLen s.enc.status = true → eErrLen t.enc.status = true) ∧
    (eErrBusy s.enc.status = true → eErrBusy t.enc.status = true)

/-- 10_state.md R15, 60_exceptions.md R198: `D_OK` and `D_ERR` are left only by DEC.START or RESET; every other operation, and
every step of an exchange but the DEC.START of a reply, leaves FDEC as it is. -/
def Obligations.VerdictIsLeftOnlyByStartOrReset : Prop :=
  ∀ s t : State, (s.dec.state = .ok ∨ s.dec.state = .err) →
    ((∃ i : Instr, i ≠ .decStart ∧ i ≠ .reset ∧ exec i s = .next t) ∨
      (advance s = .next t ∧ (s.exchange = .reading → s.readFault = true))) →
    t.dec = s.dec

/-- 20_memory.md R50, 70_reset_and_hazards.md R226: what was emitted cannot be called back: `TX` only grows, by at most one byte, and
only ENC.STEP and the sending half of an exchange make it grow. For RESET this is the MODEL'S READING (DEDUCED, log 4). -/
def Obligations.TxOnlyGrows : Prop :=
  ∀ s t : State,
    (∀ i : Instr, exec i s = .next t → t.tx = s.tx ∨ (i = .encStep ∧ ∃ b : Byte, t.tx = s.tx ++ [b])) ∧
    (advance s = .next t →
      t.tx = s.tx ∨ ((∃ query start, s.exchange = .sending query start) ∧ ∃ b : Byte, t.tx = s.tx ++ [b]))

/-- 20_memory.md R50, 41_frame_encoder.md R113: every step keeps `TX` the concatenation of whole frames and the bytes emitted so far of
the frame in progress, as long as no RESET has abandoned one (log 24). -/
def Obligations.StepKeepsTheTxInvariant : Prop :=
  ∀ s t : State, Inv s → TxInv s → step s = .next t → TxInv t

/-- 41_frame_encoder.md R118, 70_reset_and_hazards.md R226, 93_implementation_defined.md U5 (log 24): where FENC's run is over `TX` is whole
frames; a RESET in the middle of a frame, after its first byte, leaves no clean end, then or at any later step. -/
def Obligations.DoneMeansWholeFrames : Prop :=
  (∀ s : State, TxInv s → EncoderDone s → WholeFrames s.reflect s.tx) ∧
  ∀ s t : State,
    (s.enc.state ≠ .idle → (s.enc.state = .pre → s.enc.idx ≠ 0) → exec .reset s = .next t →
      ¬EncoderDone t ∧ t.partialTx = true) ∧
    (s.partialTx = true → step s = .next t → ¬EncoderDone t ∧ t.partialTx = true)

/-- 20_memory.md R40: `PAY_TX` is written only by ENC.START (which is also the first step of a command operation) and cleared by
RESET; `PAY_RX` is written only by DEC.PUSH (which is also a step of an exchange's reply) and cleared by RESET. -/
def Obligations.BuffersHaveOneWriter : Prop :=
  ∀ s t : State,
    (∀ i : Instr, exec i s = .next t → i ≠ .reset →
      ((∀ c p, i ≠ .encStart c p) → commandOf i = none → t.enc.payTx = s.enc.payTx) ∧
      ((∀ b, i ≠ .decPush b) → t.dec.payRx = s.dec.payRx)) ∧
    (advance s = .next t →
      t.enc.payTx = s.enc.payTx ∧ ((∀ k, s.exchange ≠ .pushing k) → t.dec.payRx = s.dec.payRx))

/-- 20_memory.md R53: any interleaving of the units' operations gives each unit the result of its own operations
alone: its registers and buffer, `TX` for FENC, and what its last operation returned. -/
def Obligations.UnitsAreIndependent : Prop :=
  ∀ (is : List Instr) (s t : State),
    (∀ i ∈ is, isEncOp i = true ∨ isDecOp i = true ∨ isCrcOp i = true) → runOps is s = .next t →
    (∃ u : State, runOps (is.filter isEncOp) s = .next u ∧ u.enc = t.enc ∧ u.tx = t.tx ∧
      (∀ i : Instr, is.getLast? = some i → isEncOp i = true → u.ret = t.ret)) ∧
    (∃ u : State, runOps (is.filter isDecOp) s = .next u ∧ u.dec = t.dec ∧
      (∀ i : Instr, is.getLast? = some i → isDecOp i = true → u.ret = t.ret)) ∧
    (∃ u : State, runOps (is.filter isCrcOp) s = .next u ∧ u.crc = t.crc ∧
      (∀ i : Instr, is.getLast? = some i → isCrcOp i = true → u.ret = t.ret))

/-! ### Codes and the text lines -/

/-- 10_state.md R14, R15, R18: the codes of `e_state`, `d_state` and `d_cause`, row by row of the three tables. -/
def Obligations.StateAndCauseCodesAreDistinct : Prop :=
  (eStateCode .idle = 0 ∧ eStateCode .pre = 1 ∧ eStateCode .len = 2 ∧ eStateCode .cmd = 3 ∧ eStateCode .pay = 4 ∧
    eStateCode .crcHi = 5 ∧ eStateCode .crcLo = 6) ∧
  (dStateCode .pre = 0 ∧ dStateCode .len = 1 ∧ dStateCode .cmd = 2 ∧ dStateCode .pay = 3 ∧ dStateCode .crcHi = 4 ∧
    dStateCode .crcLo = 5 ∧ dStateCode .ok = 6 ∧ dStateCode .err = 7) ∧
  (causeCode .none = 0 ∧ causeCode .preamble = 1 ∧ causeCode .short = 2 ∧ causeCode .length = 3 ∧
    causeCode .checksum = 4) ∧
  Function.Injective eStateCode ∧ Function.Injective dStateCode ∧ Function.Injective causeCode

/-- 30_encoding.md R80 (transcribed; the server is outside the block): `T1` and `T0` ask for transmit on and off, `m`
for the status query, `M <mode> <width>` for the mode of the name with the width ignored, and `F` with the decimal digits of a number
for that frequency when it fits 32 bits (the digit reading is the model's choice, log 21); a number that does not fit, or with a minus
sign, is refused (93_implementation_defined.md U15). -/
def Obligations.TextLinesAskForTheirFrames : Prop :=
  ∀ cfg : Config,
    lineAction cfg [0x54, 0x31] = .run (.txctl true) ∧ lineAction cfg [0x54, 0x30] = .run (.txctl false) ∧
    lineAction cfg [0x6D] = .run .status ∧ lineAction cfg [0x78] = .unknown ∧ lineAction cfg [] = .unknown ∧
    (∀ name width : List Byte, name ≠ [] → width ≠ [] → (∀ b ∈ name ++ width, isBlank b = false) →
      lineAction cfg (0x4D :: 0x20 :: (name ++ 0x20 :: width)) =
        .run (.mode (BitVec.ofNat 8 (modeNameToId cfg name)))) ∧
    (∀ ds : List (Fin 10), ds ≠ [] →
      lineAction cfg (0x46 :: ds.map fun d => BitVec.ofNat 8 (0x30 + d.val)) =
        if Nat.ofDigits 10 (ds.reverse.map Fin.val) < 2 ^ 32
        then .run (.freq (BitVec.ofNat 32 (Nat.ofDigits 10 (ds.reverse.map Fin.val)))) else .outOfDomain) ∧
    (∀ ds : List (Fin 10), ds ≠ [] →
      lineAction cfg (0x46 :: 0x2D :: ds.map fun d => BitVec.ofNat 8 (0x30 + d.val)) =
        if Nat.ofDigits 10 (ds.reverse.map Fin.val) = 0 then .run (.freq 0) else .outOfDomain)
end

