-- ==== Sys2Proof/Laws/Memory.lean ====
section
/-! SUPPORT. The laws of the byte buffers: a read after a write, the canonical form, reading a written run, and the
empty buffers of reset. -/

namespace Sys2Proof.Machine

@[simp] theorem Memory.read_nil (i : Nat) : Memory.read [] i = none := rfl

@[simp] theorem Memory.read_write_same (m : Memory) (i : Nat) (b : Byte) : (m.write i b).read i = some b := by
  induction m with
  | nil => simp [Memory.write, Memory.read]
  | cons c rest ih =>
    obtain ⟨k, v⟩ := c
    unfold Memory.write
    split
    · simp [Memory.read]
    · split
      · simp [Memory.read]
      · next h => simp [Memory.read, Ne.symm h, ih]

theorem Memory.read_write_other (m : Memory) {i j : Nat} (b : Byte) (h : j ≠ i) :
    (m.write i b).read j = m.read j := by
  induction m with
  | nil => simp [Memory.write, Memory.read, Ne.symm h]
  | cons c rest ih =>
    obtain ⟨k, v⟩ := c
    unfold Memory.write
    split
    · simp [Memory.read, Ne.symm h]
    · split
      · next hk => subst hk; simp [Memory.read, Ne.symm h]
      · simp [Memory.read, ih]

/-- A read after a write, in one line. -/
theorem Memory.read_write (m : Memory) (i j : Nat) (b : Byte) :
    (m.write i b).read j = if j = i then some b else m.read j := by
  split
  · next h => subst h; simp
  · next h => exact Memory.read_write_other m b h

/-- The indexes a write leaves listed. -/
theorem Memory.mem_write {m : Memory} {i : Nat} {b : Byte} {c : Host.Cell} (h : c ∈ m.write i b) :
    c = (i, b) ∨ c ∈ m := by
  induction m with
  | nil => simpa [Memory.write] using h
  | cons d rest ih =>
    obtain ⟨k, v⟩ := d
    unfold Memory.write at h
    split at h
    · simpa using h
    · split at h
      · rcases List.mem_cons.mp h with h | h
        · exact .inl h
        · exact .inr (List.mem_cons_of_mem _ h)
      · rcases List.mem_cons.mp h with h | h
        · exact .inr (h ▸ List.mem_cons_self)
        · exact (ih h).imp id (List.mem_cons_of_mem _)

theorem Memory.wf_nil : Memory.wf [] = true := rfl

theorem Memory.wf_cons {c : Host.Cell} {m : Memory} :
    Memory.wf (c :: m) = true ↔ (∀ d ∈ m, c.1 < d.1) ∧ Memory.wf m = true := by
  simp [Memory.wf, List.pairwise_cons]

/-- A write keeps the canonical form. -/
theorem Memory.wf_write {m : Memory} {i : Nat} {b : Byte} (h : m.wf = true) : (m.write i b).wf = true := by
  induction m with
  | nil => simp [Memory.write, Memory.wf]
  | cons c rest ih =>
    obtain ⟨k, v⟩ := c
    obtain ⟨hk, hr⟩ := Memory.wf_cons.mp h
    unfold Memory.write
    split
    · next hi =>
      refine Memory.wf_cons.mpr ⟨fun d hd => ?_, h⟩
      rcases List.mem_cons.mp hd with rfl | hd
      · exact hi
      · exact Nat.lt_trans hi (hk d hd)
    · split
      · next hi => subst hi; exact Memory.wf_cons.mpr ⟨hk, hr⟩
      · next h1 h2 =>
        refine Memory.wf_cons.mpr ⟨fun d hd => ?_, ih hr⟩
        rcases Memory.mem_write hd with rfl | hd
        · show k < i; omega
        · exact hk d hd

/-- Writing a run keeps the canonical form. -/
theorem Memory.wf_writeFrom (bs : List Byte) (m : Memory) (i : Nat) (h : m.wf = true) :
    (m.writeFrom i bs).wf = true := by
  induction bs generalizing m i with
  | nil => exact h
  | cons b bs ih => exact ih _ _ (Memory.wf_write h)

/-- A read of a written run. -/
theorem Memory.read_writeFrom (bs : List Byte) (m : Memory) (i j : Nat) :
    (m.writeFrom i bs).read j = if i ≤ j ∧ j < i + bs.length then bs[j - i]? else m.read j := by
  induction bs generalizing m i with
  | nil => simp only [Memory.writeFrom, List.length_nil]; split <;> [omega; rfl]
  | cons b bs ih =>
    simp only [Memory.writeFrom, ih, Memory.read_write, List.length_cons]
    by_cases hj : j = i
    · subst hj; simp
    · by_cases h : i + 1 ≤ j ∧ j < i + 1 + bs.length
      · obtain ⟨k, rfl⟩ : ∃ k, j = i + 1 + k := ⟨j - (i + 1), by omega⟩
        have e1 : i + 1 + k - (i + 1) = k := by omega
        have e2 : i + 1 + k - i = k + 1 := by omega
        rw [if_pos h, if_pos (by omega), e1, e2, List.getElem?_cons_succ]
      · rw [if_neg h, if_neg hj, if_neg (by omega)]

/-- A run of reads succeeds exactly with the bytes read one by one. -/
theorem Memory.readFrom_eq_some {m : Memory} {i k : Nat} {bs : List Byte} :
    m.readFrom i k = some bs ↔ bs.length = k ∧ ∀ j, j < k → m.read (i + j) = bs[j]? := by
  induction k generalizing i bs with
  | zero => simp only [Memory.readFrom, Option.some.injEq]; constructor
            · rintro rfl; simp
            · rintro ⟨h, -⟩; exact (List.length_eq_zero_iff.mp h).symm
  | succ k ih =>
    constructor
    · intro h
      simp only [Memory.readFrom] at h
      split at h
      · next b rest hb hrest =>
        obtain rfl := Option.some.inj h
        obtain ⟨hlen, hall⟩ := ih.mp hrest
        refine ⟨by simp [hlen], fun j hj => ?_⟩
        cases j with
        | zero => simpa using hb
        | succ j => rw [← Nat.add_assoc, Nat.add_right_comm, List.getElem?_cons_succ]; exact hall j (by omega)
      · simp at h
    · rintro ⟨hlen, hall⟩
      cases bs with
      | nil => simp at hlen
      | cons b rest =>
        have hb : m.read i = some b := by simpa using hall 0 (by omega)
        have hrest : m.readFrom (i + 1) k = some rest :=
          ih.mpr ⟨by simpa using hlen, fun j hj => by
            have := hall (j + 1) (by omega)
            rwa [List.getElem?_cons_succ, ← Nat.add_assoc, Nat.add_right_comm] at this⟩
        simp [Memory.readFrom, hb, hrest]

theorem State.reset_payTx_wf : State.reset.enc.payTx.wf = true := rfl

theorem State.reset_payRx_wf : State.reset.dec.payRx.wf = true := rfl

end Sys2Proof.Machine
end

