-- ==== Sys2Proof/Laws/State.lean ====
section
/-! SUPPORT. One lemma per field per update of the state, each true by unfolding once, so that no later proof
unfolds a record update. -/

namespace Sys2Proof.Machine

@[simp] theorem State.setCrc_crc (s : State) (v : Word) : (s.setCrc v).crc = v := rfl

@[simp] theorem State.setCrc_enc (s : State) (v : Word) : (s.setCrc v).enc = s.enc := rfl

@[simp] theorem State.setCrc_dec (s : State) (v : Word) : (s.setCrc v).dec = s.dec := rfl

@[simp] theorem State.setCrc_tx (s : State) (v : Word) : (s.setCrc v).tx = s.tx := rfl

@[simp] theorem State.setCrc_rx (s : State) (v : Word) : (s.setCrc v).rx = s.rx := rfl

@[simp] theorem State.setCrc_cfg (s : State) (v : Word) : (s.setCrc v).cfg = s.cfg := rfl

@[simp] theorem State.setCrc_ret (s : State) (v : Word) : (s.setCrc v).ret = s.ret := rfl

@[simp] theorem State.setCrc_inputs (s : State) (v : Word) : (s.setCrc v).inputs = s.inputs := rfl

@[simp] theorem State.setCrc_readFault (s : State) (v : Word) : (s.setCrc v).readFault = s.readFault := rfl

@[simp] theorem State.setCrc_exchange (s : State) (v : Word) : (s.setCrc v).exchange = s.exchange := rfl

@[simp] theorem State.setCrc_partialTx (s : State) (v : Word) : (s.setCrc v).partialTx = s.partialTx := rfl

@[simp] theorem State.setCrc_reflect (s : State) (v : Word) : (s.setCrc v).reflect = s.reflect := rfl

@[simp] theorem State.setEnc_crc (s : State) (v : Fenc) : (s.setEnc v).crc = s.crc := rfl

@[simp] theorem State.setEnc_enc (s : State) (v : Fenc) : (s.setEnc v).enc = v := rfl

@[simp] theorem State.setEnc_dec (s : State) (v : Fenc) : (s.setEnc v).dec = s.dec := rfl

@[simp] theorem State.setEnc_tx (s : State) (v : Fenc) : (s.setEnc v).tx = s.tx := rfl

@[simp] theorem State.setEnc_rx (s : State) (v : Fenc) : (s.setEnc v).rx = s.rx := rfl

@[simp] theorem State.setEnc_cfg (s : State) (v : Fenc) : (s.setEnc v).cfg = s.cfg := rfl

@[simp] theorem State.setEnc_ret (s : State) (v : Fenc) : (s.setEnc v).ret = s.ret := rfl

@[simp] theorem State.setEnc_inputs (s : State) (v : Fenc) : (s.setEnc v).inputs = s.inputs := rfl

@[simp] theorem State.setEnc_readFault (s : State) (v : Fenc) : (s.setEnc v).readFault = s.readFault := rfl

@[simp] theorem State.setEnc_exchange (s : State) (v : Fenc) : (s.setEnc v).exchange = s.exchange := rfl

@[simp] theorem State.setEnc_partialTx (s : State) (v : Fenc) : (s.setEnc v).partialTx = s.partialTx := rfl

@[simp] theorem State.setEnc_reflect (s : State) (v : Fenc) : (s.setEnc v).reflect = s.reflect := rfl

@[simp] theorem State.setDec_crc (s : State) (v : Fdec) : (s.setDec v).crc = s.crc := rfl

@[simp] theorem State.setDec_enc (s : State) (v : Fdec) : (s.setDec v).enc = s.enc := rfl

@[simp] theorem State.setDec_dec (s : State) (v : Fdec) : (s.setDec v).dec = v := rfl

@[simp] theorem State.setDec_tx (s : State) (v : Fdec) : (s.setDec v).tx = s.tx := rfl

@[simp] theorem State.setDec_rx (s : State) (v : Fdec) : (s.setDec v).rx = s.rx := rfl

@[simp] theorem State.setDec_cfg (s : State) (v : Fdec) : (s.setDec v).cfg = s.cfg := rfl

@[simp] theorem State.setDec_ret (s : State) (v : Fdec) : (s.setDec v).ret = s.ret := rfl

@[simp] theorem State.setDec_inputs (s : State) (v : Fdec) : (s.setDec v).inputs = s.inputs := rfl

@[simp] theorem State.setDec_readFault (s : State) (v : Fdec) : (s.setDec v).readFault = s.readFault := rfl

@[simp] theorem State.setDec_exchange (s : State) (v : Fdec) : (s.setDec v).exchange = s.exchange := rfl

@[simp] theorem State.setDec_partialTx (s : State) (v : Fdec) : (s.setDec v).partialTx = s.partialTx := rfl

@[simp] theorem State.setDec_reflect (s : State) (v : Fdec) : (s.setDec v).reflect = s.reflect := rfl

@[simp] theorem State.emit_crc (s : State) (b : Byte) : (s.emit b).crc = s.crc := rfl

@[simp] theorem State.emit_enc (s : State) (b : Byte) : (s.emit b).enc = s.enc := rfl

@[simp] theorem State.emit_dec (s : State) (b : Byte) : (s.emit b).dec = s.dec := rfl

@[simp] theorem State.emit_tx (s : State) (b : Byte) : (s.emit b).tx = s.tx ++ [b] := rfl

@[simp] theorem State.emit_rx (s : State) (b : Byte) : (s.emit b).rx = s.rx := rfl

@[simp] theorem State.emit_cfg (s : State) (b : Byte) : (s.emit b).cfg = s.cfg := rfl

@[simp] theorem State.emit_ret (s : State) (b : Byte) : (s.emit b).ret = s.ret := rfl

@[simp] theorem State.emit_inputs (s : State) (b : Byte) : (s.emit b).inputs = s.inputs := rfl

@[simp] theorem State.emit_readFault (s : State) (b : Byte) : (s.emit b).readFault = s.readFault := rfl

@[simp] theorem State.emit_exchange (s : State) (b : Byte) : (s.emit b).exchange = s.exchange := rfl

@[simp] theorem State.emit_partialTx (s : State) (b : Byte) : (s.emit b).partialTx = s.partialTx := rfl

@[simp] theorem State.emit_reflect (s : State) (b : Byte) : (s.emit b).reflect = s.reflect := rfl

@[simp] theorem State.takeRx_crc (s : State) : (s.takeRx).crc = s.crc := rfl

@[simp] theorem State.takeRx_enc (s : State) : (s.takeRx).enc = s.enc := rfl

@[simp] theorem State.takeRx_dec (s : State) : (s.takeRx).dec = s.dec := rfl

@[simp] theorem State.takeRx_tx (s : State) : (s.takeRx).tx = s.tx := rfl

@[simp] theorem State.takeRx_rx (s : State) : (s.takeRx).rx = s.rx.tail := rfl

@[simp] theorem State.takeRx_cfg (s : State) : (s.takeRx).cfg = s.cfg := rfl

@[simp] theorem State.takeRx_ret (s : State) : (s.takeRx).ret = s.ret := rfl

@[simp] theorem State.takeRx_inputs (s : State) : (s.takeRx).inputs = s.inputs := rfl

@[simp] theorem State.takeRx_readFault (s : State) : (s.takeRx).readFault = s.readFault := rfl

@[simp] theorem State.takeRx_exchange (s : State) : (s.takeRx).exchange = s.exchange := rfl

@[simp] theorem State.takeRx_partialTx (s : State) : (s.takeRx).partialTx = s.partialTx := rfl

@[simp] theorem State.takeRx_reflect (s : State) : (s.takeRx).reflect = s.reflect := rfl

@[simp] theorem State.receive_crc (s : State) (b : Byte) : (s.receive b).crc = s.crc := rfl

@[simp] theorem State.receive_enc (s : State) (b : Byte) : (s.receive b).enc = s.enc := rfl

@[simp] theorem State.receive_dec (s : State) (b : Byte) : (s.receive b).dec = s.dec := rfl

@[simp] theorem State.receive_tx (s : State) (b : Byte) : (s.receive b).tx = s.tx := rfl

@[simp] theorem State.receive_rx (s : State) (b : Byte) : (s.receive b).rx = s.rx ++ [b] := rfl

@[simp] theorem State.receive_cfg (s : State) (b : Byte) : (s.receive b).cfg = s.cfg := rfl

@[simp] theorem State.receive_ret (s : State) (b : Byte) : (s.receive b).ret = s.ret := rfl

@[simp] theorem State.receive_inputs (s : State) (b : Byte) : (s.receive b).inputs = s.inputs := rfl

@[simp] theorem State.receive_readFault (s : State) (b : Byte) : (s.receive b).readFault = s.readFault := rfl

@[simp] theorem State.receive_exchange (s : State) (b : Byte) : (s.receive b).exchange = s.exchange := rfl

@[simp] theorem State.receive_partialTx (s : State) (b : Byte) : (s.receive b).partialTx = s.partialTx := rfl

@[simp] theorem State.receive_reflect (s : State) (b : Byte) : (s.receive b).reflect = s.reflect := rfl

@[simp] theorem State.answer_crc (s : State) (v : Ret) : (s.answer v).crc = s.crc := rfl

@[simp] theorem State.answer_enc (s : State) (v : Ret) : (s.answer v).enc = s.enc := rfl

@[simp] theorem State.answer_dec (s : State) (v : Ret) : (s.answer v).dec = s.dec := rfl

@[simp] theorem State.answer_tx (s : State) (v : Ret) : (s.answer v).tx = s.tx := rfl

@[simp] theorem State.answer_rx (s : State) (v : Ret) : (s.answer v).rx = s.rx := rfl

@[simp] theorem State.answer_cfg (s : State) (v : Ret) : (s.answer v).cfg = s.cfg := rfl

@[simp] theorem State.answer_ret (s : State) (v : Ret) : (s.answer v).ret = v := rfl

@[simp] theorem State.answer_inputs (s : State) (v : Ret) : (s.answer v).inputs = s.inputs := rfl

@[simp] theorem State.answer_readFault (s : State) (v : Ret) : (s.answer v).readFault = s.readFault := rfl

@[simp] theorem State.answer_exchange (s : State) (v : Ret) : (s.answer v).exchange = s.exchange := rfl

@[simp] theorem State.answer_partialTx (s : State) (v : Ret) : (s.answer v).partialTx = s.partialTx := rfl

@[simp] theorem State.answer_reflect (s : State) (v : Ret) : (s.answer v).reflect = s.reflect := rfl

@[simp] theorem State.setInputs_crc (s : State) (v : List Input) : (s.setInputs v).crc = s.crc := rfl

@[simp] theorem State.setInputs_enc (s : State) (v : List Input) : (s.setInputs v).enc = s.enc := rfl

@[simp] theorem State.setInputs_dec (s : State) (v : List Input) : (s.setInputs v).dec = s.dec := rfl

@[simp] theorem State.setInputs_tx (s : State) (v : List Input) : (s.setInputs v).tx = s.tx := rfl

@[simp] theorem State.setInputs_rx (s : State) (v : List Input) : (s.setInputs v).rx = s.rx := rfl

@[simp] theorem State.setInputs_cfg (s : State) (v : List Input) : (s.setInputs v).cfg = s.cfg := rfl

@[simp] theorem State.setInputs_ret (s : State) (v : List Input) : (s.setInputs v).ret = s.ret := rfl

@[simp] theorem State.setInputs_inputs (s : State) (v : List Input) : (s.setInputs v).inputs = v := rfl

@[simp] theorem State.setInputs_readFault (s : State) (v : List Input) : (s.setInputs v).readFault = s.readFault := rfl

@[simp] theorem State.setInputs_exchange (s : State) (v : List Input) : (s.setInputs v).exchange = s.exchange := rfl

@[simp] theorem State.setInputs_partialTx (s : State) (v : List Input) : (s.setInputs v).partialTx = s.partialTx := rfl

@[simp] theorem State.setInputs_reflect (s : State) (v : List Input) : (s.setInputs v).reflect = s.reflect := rfl

@[simp] theorem State.setReadFault_crc (s : State) (v : Bool) : (s.setReadFault v).crc = s.crc := rfl

@[simp] theorem State.setReadFault_enc (s : State) (v : Bool) : (s.setReadFault v).enc = s.enc := rfl

@[simp] theorem State.setReadFault_dec (s : State) (v : Bool) : (s.setReadFault v).dec = s.dec := rfl

@[simp] theorem State.setReadFault_tx (s : State) (v : Bool) : (s.setReadFault v).tx = s.tx := rfl

@[simp] theorem State.setReadFault_rx (s : State) (v : Bool) : (s.setReadFault v).rx = s.rx := rfl

@[simp] theorem State.setReadFault_cfg (s : State) (v : Bool) : (s.setReadFault v).cfg = s.cfg := rfl

@[simp] theorem State.setReadFault_ret (s : State) (v : Bool) : (s.setReadFault v).ret = s.ret := rfl

@[simp] theorem State.setReadFault_inputs (s : State) (v : Bool) : (s.setReadFault v).inputs = s.inputs := rfl

@[simp] theorem State.setReadFault_readFault (s : State) (v : Bool) : (s.setReadFault v).readFault = v := rfl

@[simp] theorem State.setReadFault_exchange (s : State) (v : Bool) : (s.setReadFault v).exchange = s.exchange := rfl

@[simp] theorem State.setReadFault_partialTx (s : State) (v : Bool) : (s.setReadFault v).partialTx = s.partialTx := rfl

@[simp] theorem State.setReadFault_reflect (s : State) (v : Bool) : (s.setReadFault v).reflect = s.reflect := rfl

@[simp] theorem State.setExchange_crc (s : State) (v : Exchange) : (s.setExchange v).crc = s.crc := rfl

@[simp] theorem State.setExchange_enc (s : State) (v : Exchange) : (s.setExchange v).enc = s.enc := rfl

@[simp] theorem State.setExchange_dec (s : State) (v : Exchange) : (s.setExchange v).dec = s.dec := rfl

@[simp] theorem State.setExchange_tx (s : State) (v : Exchange) : (s.setExchange v).tx = s.tx := rfl

@[simp] theorem State.setExchange_rx (s : State) (v : Exchange) : (s.setExchange v).rx = s.rx := rfl

@[simp] theorem State.setExchange_cfg (s : State) (v : Exchange) : (s.setExchange v).cfg = s.cfg := rfl

@[simp] theorem State.setExchange_ret (s : State) (v : Exchange) : (s.setExchange v).ret = s.ret := rfl

@[simp] theorem State.setExchange_inputs (s : State) (v : Exchange) : (s.setExchange v).inputs = s.inputs := rfl

@[simp] theorem State.setExchange_readFault (s : State) (v : Exchange) : (s.setExchange v).readFault = s.readFault := rfl

@[simp] theorem State.setExchange_exchange (s : State) (v : Exchange) : (s.setExchange v).exchange = v := rfl

@[simp] theorem State.setExchange_partialTx (s : State) (v : Exchange) : (s.setExchange v).partialTx = s.partialTx := rfl

@[simp] theorem State.setExchange_reflect (s : State) (v : Exchange) : (s.setExchange v).reflect = s.reflect := rfl

@[simp] theorem State.setPartialTx_crc (s : State) (v : Bool) : (s.setPartialTx v).crc = s.crc := rfl

@[simp] theorem State.setPartialTx_enc (s : State) (v : Bool) : (s.setPartialTx v).enc = s.enc := rfl

@[simp] theorem State.setPartialTx_dec (s : State) (v : Bool) : (s.setPartialTx v).dec = s.dec := rfl

@[simp] theorem State.setPartialTx_tx (s : State) (v : Bool) : (s.setPartialTx v).tx = s.tx := rfl

@[simp] theorem State.setPartialTx_rx (s : State) (v : Bool) : (s.setPartialTx v).rx = s.rx := rfl

@[simp] theorem State.setPartialTx_cfg (s : State) (v : Bool) : (s.setPartialTx v).cfg = s.cfg := rfl

@[simp] theorem State.setPartialTx_ret (s : State) (v : Bool) : (s.setPartialTx v).ret = s.ret := rfl

@[simp] theorem State.setPartialTx_inputs (s : State) (v : Bool) : (s.setPartialTx v).inputs = s.inputs := rfl

@[simp] theorem State.setPartialTx_readFault (s : State) (v : Bool) : (s.setPartialTx v).readFault = s.readFault := rfl

@[simp] theorem State.setPartialTx_exchange (s : State) (v : Bool) : (s.setPartialTx v).exchange = s.exchange := rfl

@[simp] theorem State.setPartialTx_partialTx (s : State) (v : Bool) : (s.setPartialTx v).partialTx = v := rfl

@[simp] theorem State.setPartialTx_reflect (s : State) (v : Bool) : (s.setPartialTx v).reflect = s.reflect := rfl

end Sys2Proof.Machine
end

