-- ==== Sys2Proof/Laws/Ops.lean ====
section
/-! SUPPORT. For each shared operation, once, everything it can do when it answers a next state; later proofs cite
these and do not unfold the operations. -/

namespace Sys2Proof.Machine

/-! ### Sequencing -/

@[simp] theorem andThen_next (s : State) (f : State → Result) : Result.andThen (.next s) f = f s := rfl

@[simp] theorem andThen_fault (e : Fault) (f : State → Result) : Result.andThen (.fault e) f = .fault e := rfl

@[simp] theorem andThen_refused (e : Refusal) (f : State → Result) : Result.andThen (.refused e) f = .refused e := rfl

theorem andThen_eq_next {x : Result} {f : State → Result} {t : State} :
    Result.andThen x f = .next t ↔ ∃ s, x = .next s ∧ f s = .next t := by
  cases x <;> simp

theorem andThen_assoc (x : Result) (f g : State → Result) :
    Result.andThen (Result.andThen x f) g = Result.andThen x fun s => Result.andThen (f s) g := by
  cases x <;> rfl

@[simp] theorem runOps_nil (s : State) : runOps [] s = .next s := rfl

@[simp] theorem runOps_cons (i : Instr) (is : List Instr) (s : State) :
    runOps (i :: is) s = Result.andThen (exec i s) (runOps is) := rfl

theorem runOps_append (as bs : List Instr) (s : State) :
    runOps (as ++ bs) s = Result.andThen (runOps as s) (runOps bs) := by
  induction as generalizing s with
  | nil => rfl
  | cons a as ih =>
    simp only [List.cons_append, runOps_cons, andThen_assoc]
    exact congrArg _ (funext ih)

@[simp] theorem exchangeSteps_zero (s : State) : exchangeSteps 0 s = .next s := rfl

@[simp] theorem exchangeSteps_succ (k : Nat) (s : State) :
    exchangeSteps (k + 1) s = Result.andThen (advance s) (exchangeSteps k) := rfl

theorem exchangeSteps_add (j k : Nat) (s : State) :
    exchangeSteps (j + k) s = Result.andThen (exchangeSteps j s) (exchangeSteps k) := by
  induction j generalizing s with
  | zero => simp
  | succ j ih =>
    simp only [Nat.succ_add, exchangeSteps_succ, andThen_assoc]
    exact congrArg _ (funext ih)

@[simp] theorem runSteps_zero (s : State) : runSteps 0 s = .next s := rfl

@[simp] theorem runSteps_succ (k : Nat) (s : State) :
    runSteps (k + 1) s = Result.andThen (step s) (runSteps k) := rfl

theorem runSteps_add (j k : Nat) (s : State) :
    runSteps (j + k) s = Result.andThen (runSteps j s) (runSteps k) := by
  induction j generalizing s with
  | zero => simp
  | succ j ih =>
    simp only [Nat.succ_add, runSteps_succ, andThen_assoc]
    exact congrArg _ (funext ih)

/-! ### FENC -/

/-- What ENC.STEP can do to FENC: one case per row of 41_frame_encoder.md R117. -/
theorem fencStep_cases {r : Bool} {e e' : Fenc} {o : Option (Byte × Bool)} (h : fencStep r e = .ok (e', o)) :
    (e.state = .idle ∧ e' = e ∧ o = none) ∨
    (e.state = .pre ∧ e.idx = 3 ∧ e' = { e with idx := 0, state := .len } ∧ o = some (preambleByte, false)) ∨
    (e.state = .pre ∧ e.idx ≠ 3 ∧ e' = { e with idx := e.idx + 1 } ∧ o = some (preambleByte, false)) ∨
    (e.state = .len ∧ e' = { e with crc := crcByte r e.crc e.len, state := .cmd } ∧ o = some (e.len, false)) ∨
    (e.state = .cmd ∧
      e' = { e with crc := crcByte r e.crc e.cmd, idx := 0, state := if e.n = 0 then .crcHi else .pay } ∧
      o = some (e.cmd, false)) ∨
    (∃ b, e.state = .pay ∧ fencPayload e = some b ∧ e.idx = e.n - 1 ∧
      e' = { e with crc := crcByte r e.crc b, state := .crcHi } ∧ o = some (b, false)) ∨
    (∃ b, e.state = .pay ∧ fencPayload e = some b ∧ e.idx ≠ e.n - 1 ∧
      e' = { e with crc := crcByte r e.crc b, idx := e.idx + 1 } ∧ o = some (b, false)) ∨
    (e.state = .crcHi ∧ e' = { e with state := .crcLo } ∧ o = some (hi8 (e.crc ^^^ crcXorOut), false)) ∨
    (e.state = .crcLo ∧ e' = { e with state := .idle } ∧ o = some (lo8 (e.crc ^^^ crcXorOut), true)) := by
  unfold fencStep at h
  split at h
  · next hs => cases h; exact .inl ⟨hs, rfl, rfl⟩
  · next hs =>
    split at h
    · next hi => cases h; exact .inr (.inl ⟨hs, hi, rfl, rfl⟩)
    · next hi => cases h; exact .inr (.inr (.inl ⟨hs, hi, rfl, rfl⟩))
  · next hs => cases h; exact .inr (.inr (.inr (.inl ⟨hs, rfl, rfl⟩)))
  · next hs => cases h; exact .inr (.inr (.inr (.inr (.inl ⟨hs, rfl, rfl⟩))))
  · next hs =>
    split at h
    · cases h
    · next b hb =>
      split at h
      · next hi => cases h; exact .inr (.inr (.inr (.inr (.inr (.inl ⟨b, hs, hb, hi, rfl, rfl⟩)))))
      · next hi => cases h; exact .inr (.inr (.inr (.inr (.inr (.inr (.inl ⟨b, hs, hb, hi, rfl, rfl⟩))))))
  · next hs => cases h; exact .inr (.inr (.inr (.inr (.inr (.inr (.inr (.inl ⟨hs, rfl, rfl⟩)))))))
  · next hs => cases h; exact .inr (.inr (.inr (.inr (.inr (.inr (.inr (.inr ⟨hs, rfl, rfl⟩)))))))

/-- What a start can do to FENC (41_frame_encoder.md R111). -/
theorem fencStart_cases (cmd : Byte) (payload : List Byte) (e : Fenc) :
    (e.state ≠ .idle ∧ fencStart cmd payload e = ({ e with status := setFlag e.status eErrBusyBit }, .busy)) ∨
    (e.state = .idle ∧ maxPayload < payload.length ∧
      fencStart cmd payload e = ({ e with status := setFlag e.status eErrLenBit }, .length)) ∨
    (e.state = .idle ∧ payload.length ≤ maxPayload ∧
      fencStart cmd payload e =
        (⟨.pre, 0, cmd, BitVec.ofNat 8 payload.length, lenByte payload, crcInitValue, e.status,
          Memory.writeFrom [] 0 payload⟩, .accepted)) := by
  unfold fencStart
  by_cases hs : e.state = .idle
  · by_cases hn : payload.length ≤ maxPayload
    · exact .inr (.inr ⟨hs, hn, by simp [hs, Nat.not_lt.mpr hn]⟩)
    · exact .inr (.inl ⟨hs, Nat.lt_of_not_le hn, by simp [hs, Nat.lt_of_not_le hn]⟩)
  · exact .inl ⟨hs, by simp [hs]⟩

/-- If ENC.STEP answers a next state, only FENC, `TX` and the answer can differ. -/
theorem encStep_next {s t : State} (h : encStep s = .next t) :
    ∃ e o, fencStep s.reflect s.enc = .ok (e, o) ∧
      ((o = none ∧ t = (s.setEnc e).answer .idle) ∨
        ∃ b last, o = some (b, last) ∧ t = ((s.setEnc e).emit b).answer (.byte b last)) := by
  unfold encStep at h
  split at h
  · cases h
  · next e he => cases h; exact ⟨e, none, he, .inl ⟨rfl, rfl⟩⟩
  · next e b last he => cases h; exact ⟨e, some (b, last), he, .inr ⟨b, last, rfl, rfl⟩⟩

/-- ENC.STEP never refuses. -/
theorem encStep_ne_refused (s : State) (e : Refusal) : encStep s ≠ .refused e := by
  unfold encStep
  split <;> simp

/-! ### FDEC -/

/-- What DEC.PUSH can do to FDEC: one case per row of 42_frame_decoder.md R136. -/
theorem fdecPush_cases {r : Bool} {b : Byte} {d d' : Fdec} (h : fdecPush r b d = .ok d') :
    (d.state = .pre ∧ b ≠ preambleByte ∧ d' = raiseMalformed .preamble d) ∨
    (d.state = .pre ∧ b = preambleByte ∧ d.idx = 3 ∧ d' = { d with idx := 0, state := .len }) ∨
    (d.state = .pre ∧ b = preambleByte ∧ d.idx ≠ 3 ∧ d' = { d with idx := d.idx + 1 }) ∨
    (d.state = .len ∧ b = 0 ∧ d' = raiseMalformed .length d) ∨
    (d.state = .len ∧ b ≠ 0 ∧ d' = { d with len := b, n := b - 1, crc := crcByte r d.crc b, state := .cmd }) ∨
    (d.state = .cmd ∧
      d' = { d with cmd := b, crc := crcByte r d.crc b, idx := 0, state := if d.n = 0 then .crcHi else .pay }) ∨
    (d.state = .pay ∧ d.idx.toNat < bufferSize ∧ d.idx = d.n - 1 ∧
      d' = { d with payRx := d.payRx.write d.idx.toNat b, crc := crcByte r d.crc b, state := .crcHi }) ∨
    (d.state = .pay ∧ d.idx.toNat < bufferSize ∧ d.idx ≠ d.n - 1 ∧
      d' = { d with payRx := d.payRx.write d.idx.toNat b, crc := crcByte r d.crc b, idx := d.idx + 1 }) ∨
    (d.state = .crcHi ∧ d' = { d with rxcrc := wordOf b (lo8 d.rxcrc), state := .crcLo }) ∨
    (d.state = .crcLo ∧ d.crc ^^^ crcXorOut = wordOf (hi8 d.rxcrc) b ∧
      d' = { d with rxcrc := wordOf (hi8 d.rxcrc) b, state := .ok }) ∨
    (d.state = .crcLo ∧ d.crc ^^^ crcXorOut ≠ wordOf (hi8 d.rxcrc) b ∧
      d' = raiseMalformed .checksum { d with rxcrc := wordOf (hi8 d.rxcrc) b }) ∨
    ((d.state = .ok ∨ d.state = .err) ∧ d' = d) := by
  unfold fdecPush at h
  split at h
  · next hs =>
    split at h
    · next hb => cases h; exact .inl ⟨hs, hb, rfl⟩
    · next hb =>
      have hb := Decidable.not_not.mp hb
      split at h
      · next hi => cases h; exact .inr (.inl ⟨hs, hb, hi, rfl⟩)
      · next hi => cases h; exact .inr (.inr (.inl ⟨hs, hb, hi, rfl⟩))
  · next hs =>
    split at h
    · next hb => cases h; exact .inr (.inr (.inr (.inl ⟨hs, hb, rfl⟩)))
    · next hb => cases h; exact .inr (.inr (.inr (.inr (.inl ⟨hs, hb, rfl⟩))))
  · next hs => cases h; exact .inr (.inr (.inr (.inr (.inr (.inl ⟨hs, rfl⟩)))))
  · next hs =>
    split at h
    · next hlt =>
      split at h
      · next hi => cases h; exact .inr (.inr (.inr (.inr (.inr (.inr (.inl ⟨hs, hlt, hi, rfl⟩))))))
      · next hi => cases h; exact .inr (.inr (.inr (.inr (.inr (.inr (.inr (.inl ⟨hs, hlt, hi, rfl⟩)))))))
    · cases h
  · next hs =>
    cases h; exact .inr (.inr (.inr (.inr (.inr (.inr (.inr (.inr (.inl ⟨hs, rfl⟩))))))))
  · next hs =>
    split at h
    · next hc =>
      cases h; exact .inr (.inr (.inr (.inr (.inr (.inr (.inr (.inr (.inr (.inl ⟨hs, hc, rfl⟩)))))))))
    · next hc =>
      cases h; exact .inr (.inr (.inr (.inr (.inr (.inr (.inr (.inr (.inr (.inr (.inl ⟨hs, hc, rfl⟩))))))))))
  · next hs =>
    cases h; exact .inr (.inr (.inr (.inr (.inr (.inr (.inr (.inr (.inr (.inr (.inr ⟨.inl hs, rfl⟩))))))))))
  · next hs =>
    cases h; exact .inr (.inr (.inr (.inr (.inr (.inr (.inr (.inr (.inr (.inr (.inr ⟨.inr hs, rfl⟩))))))))))

/-- If DEC.PUSH answers a next state, only FDEC, `RX` and the answer can differ. -/
theorem decPush_next {b : Byte} {s t : State} (h : decPush b s = .next t) :
    ∃ d, fdecPush s.reflect b s.dec = .ok d ∧ t = ((s.setDec d).takeRx).answer .nothing := by
  unfold decPush at h
  split at h
  · cases h
  · next d hd => cases h; exact ⟨d, hd, rfl⟩

/-- What DEC.END can do to FDEC (42_frame_decoder.md R133). -/
theorem fdecEnd_cases (d : Fdec) :
    ((d.state = .ok ∨ d.state = .err) ∧ fdecEnd d = d) ∨
    (d.state ≠ .ok ∧ d.state ≠ .err ∧ fdecEnd d = raiseMalformed .short d) := by
  unfold fdecEnd
  cases h : d.state <;> simp

/-- After DEC.END there is a verdict (42_frame_decoder.md R142). -/
theorem fdecEnd_verdict (d : Fdec) : (fdecEnd d).state = .ok ∨ (fdecEnd d).state = .err := by
  rcases fdecEnd_cases d with ⟨h, e⟩ | ⟨-, -, e⟩
  · rwa [e]
  · exact .inr (by rw [e]; rfl)

/-- If DEC.RESULT answers a next state, only the answer can differ. -/
theorem decResult_next {s t : State} (h : decResult s = .next t) :
    (fdecResult s.dec = .ok none ∧ t = s.answer .pending) ∨
    ∃ v, fdecResult s.dec = .ok (some v) ∧ t = s.answer (.decoded v) := by
  unfold decResult at h
  split at h
  · cases h
  · next hd => cases h; exact .inl ⟨hd, rfl⟩
  · next v hd => cases h; exact .inr ⟨v, hd, rfl⟩

/-! ### Exchanges -/

/-- What the start of a command operation does: a refused start is the answer, an accepted one holds the gate. -/
theorem startExchange_cases (query : Bool) (cmd : Byte) (payload : List Byte) (s : State) :
    ((fencStart cmd payload s.enc).2 ≠ .accepted ∧ startExchange query cmd payload s =
      .next ((s.setEnc (fencStart cmd payload s.enc).1).answer (.start (fencStart cmd payload s.enc).2))) ∨
    ((fencStart cmd payload s.enc).2 = .accepted ∧ startExchange query cmd payload s =
      .next (((s.setEnc (fencStart cmd payload s.enc).1).answer (.start .accepted)).setExchange
        (.sending query s.tx.length))) := by
  simp only [startExchange, encStart, andThen_next, State.answer_ret]
  cases h : (fencStart cmd payload s.enc).2 <;> simp

/-- If a step of a sending exchange answers a next state, it is an ENC.STEP, and the exchange goes on when FENC is
idle after it. -/
theorem sendStep_next {query : Bool} {start : Nat} {s t : State} (h : sendStep query start s = .next t) :
    ∃ u, encStep s = .next u ∧
      ((u.enc.state = .idle ∧ t = frameSent query start u) ∨ (u.enc.state ≠ .idle ∧ t = u)) := by
  obtain ⟨u, hu, ht⟩ := andThen_eq_next.mp h
  split at ht
  · next hi => cases ht; exact ⟨u, hu, .inl ⟨hi, rfl⟩⟩
  · next hi => cases ht; exact ⟨_, hu, .inr ⟨hi, rfl⟩⟩

/-- The return of the serial read: it failed, or FDEC is started. -/
theorem readReturns_cases (s : State) :
    (s.readFault = true ∧
      readReturns s = .next (((s.setReadFault false).setExchange .free).answer .channelIOError)) ∨
    (s.readFault = false ∧
      readReturns s = .next (((s.setDec (fdecStart s.dec)).answer .nothing).setExchange
        (.pushing (min s.cfg.rxWindow s.rx.length)))) := by
  cases h : s.readFault <;> simp [readReturns, decStart, h]

/-- If a step of a pushing exchange answers a next state, it is the DEC.PUSH of the next byte of `RX`, or DEC.END. -/
theorem pushStep_next {left : Nat} {s t : State} (h : pushStep left s = .next t) :
    (∃ k b rest u, left = k + 1 ∧ s.rx = b :: rest ∧ decPush b s = .next u ∧ t = u.setExchange (.pushing k)) ∨
    ((left = 0 ∨ s.rx = []) ∧ t = ((s.setDec (fdecEnd s.dec)).answer .nothing).setExchange .result) := by
  cases left with
  | zero => cases h; exact .inr ⟨.inl rfl, rfl⟩
  | succ k =>
    cases hx : s.rx with
    | nil =>
      simp only [pushStep, hx] at h
      cases h
      exact .inr ⟨.inr rfl, rfl⟩
    | cons b rest =>
      simp only [pushStep, hx] at h
      obtain ⟨u, hu, ht⟩ := andThen_eq_next.mp h
      cases ht
      exact .inl ⟨k, b, rest, u, rfl, rfl, hu, rfl⟩

/-- If the last step of an exchange answers a next state, it is DEC.RESULT: no verdict yet, or the parsed reply. -/
theorem resultStep_next {s t : State} (h : resultStep s = .next t) :
    (fdecResult s.dec = .ok none ∧ t = s.answer .pending) ∨
    ∃ d, fdecResult s.dec = .ok (some d) ∧
      t = ((s.answer (.decoded d)).setExchange .free).answer
        (.status (parseStatus s.cfg d).1 (parseStatus s.cfg d).2) := by
  obtain ⟨u, hu, ht⟩ := andThen_eq_next.mp h
  rcases decResult_next hu with ⟨hd, rfl⟩ | ⟨d, hd, rfl⟩
  · cases ht; exact .inl ⟨hd, rfl⟩
  · cases ht; exact .inr ⟨d, hd, rfl⟩

/-- What a step of the exchange in flight can be. -/
theorem advance_next {s t : State} (h : advance s = .next t) :
    (s.exchange = .free ∧ t = s) ∨
    (∃ query start, s.exchange = .sending query start ∧ sendStep query start s = .next t) ∨
    (s.exchange = .reading ∧ readReturns s = .next t) ∨
    (∃ left, s.exchange = .pushing left ∧ pushStep left s = .next t) ∨
    (s.exchange = .result ∧ resultStep s = .next t) := by
  unfold advance at h
  split at h
  · next he => cases h; exact .inl ⟨he, rfl⟩
  · next q k he => exact .inr (.inl ⟨q, k, he, h⟩)
  · next he => exact .inr (.inr (.inl ⟨he, h⟩))
  · next k he => exact .inr (.inr (.inr (.inl ⟨k, he, h⟩)))
  · next he => exact .inr (.inr (.inr (.inr ⟨he, h⟩)))

/-! ### The CRC -/

@[simp] theorem xor_crcXorOut (c : Word) : c ^^^ crcXorOut = c := by simp [crcXorOut]

@[simp] theorem crc16_nil (r : Bool) : crc16 r [] = 0xFFFF := by simp [crc16, crcBytes, crcInitValue]

/-- The CRC register can be carried byte by byte (40_crc_generator.md R101 item 1). -/
theorem crc16_concat (r : Bool) (m : List Byte) (b : Byte) : crc16 r (m ++ [b]) = crcByte r (crc16 r m) b := by
  simp [crc16, crcBytes, List.foldl_append]

/-! ### Steps -/

/-- What a requested operation does: it runs without its input, or it waits for the gate. -/
theorem requested_cases (i : Instr) (rest : List Input) (s : State) :
    requested i rest s = .run i (s.setInputs rest) ∨
    (needsGate i = true ∧ s.exchange ≠ .free ∧ requested i rest s = .exchange s) := by
  by_cases h : needsGate i = true ∧ s.exchange ≠ .free
  · exact .inr ⟨h.1, h.2, by simp [requested, State.gateHeld, h.1, h.2]⟩
  · refine .inl ?_
    simp only [requested, State.gateHeld, Bool.and_eq_true, decide_eq_true_eq]
    rw [if_neg h]

/-- What one step can be (70_reset_and_hazards.md R232): an instruction, the exchange's next step with or without a turn
used up, a byte of the device, or the news that the next read fails. -/
theorem step_next {s t : State} (h : step s = .next t) :
    (∃ i rest, exec i (s.setInputs rest) = .next t) ∨ (∃ rest, advance (s.setInputs rest) = .next t) ∨
    (∃ b rest, t = (s.setInputs rest).receive b) ∨ (∃ rest, t = (s.setInputs rest).setReadFault true) := by
  have keep : s = s.setInputs s.inputs := rfl
  unfold step nextMove at h
  split at h
  · next i u hm =>
    split at hm
    · cases hm
    · next j rest _ =>
      rcases requested_cases j rest s with e | ⟨-, -, e⟩ <;> rw [e] at hm <;> cases hm
      exact .inl ⟨_, _, h⟩
    · split at hm
      · next j _ _ =>
        rcases requested_cases j _ s with e | ⟨-, -, e⟩ <;> rw [e] at hm <;> cases hm
        exact .inl ⟨_, _, h⟩
      · cases hm
    · cases hm
    · cases hm
    · cases hm
  · next u hm =>
    have hu : ∃ rest, u = s.setInputs rest := by
      split at hm
      · cases hm; exact ⟨_, keep⟩
      · next j rest _ =>
        rcases requested_cases j rest s with e | ⟨-, -, e⟩ <;> rw [e] at hm <;> cases hm
        exact ⟨_, keep⟩
      · split at hm
        · next j _ _ =>
          rcases requested_cases j _ s with e | ⟨-, -, e⟩ <;> rw [e] at hm <;> cases hm
          exact ⟨_, keep⟩
        · cases hm
      · cases hm
      · cases hm
      · cases hm; exact ⟨_, rfl⟩
    obtain ⟨rest, rfl⟩ := hu
    exact .inr (.inl ⟨rest, h⟩)
  · next u hm =>
    cases h
    split at hm
    · cases hm
    · next j rest _ => rcases requested_cases j rest s with e | ⟨-, -, e⟩ <;> rw [e] at hm <;> cases hm
    · split at hm
      · next j _ _ => rcases requested_cases j _ s with e | ⟨-, -, e⟩ <;> rw [e] at hm <;> cases hm
      · cases hm
    · cases hm; exact .inr (.inr (.inl ⟨_, _, rfl⟩))
    · cases hm; exact .inr (.inr (.inr ⟨_, rfl⟩))
    · cases hm
  · cases h

end Sys2Proof.Machine
end

