-- ==== Sys2Proof/Laws/PerInstr.lean ====
section
/-! SUPPORT. Statements about every instruction as syntax, one lemma per constructor (family `ListingRoundTrip`): the
header and payload of a well-formed instruction's bytes read back as its row, and what is left is the checksum. -/

namespace Sys2Proof.Laws

open Sys2Proof Sys2Proof.Machine

/-- A listing made of the preamble, `LEN`, `CMD`, the payload and any further bytes. -/
theorem decodeListing_frame (cmd : Byte) (payload rest : List Byte) (h : payload.length ≤ maxPayload) :
    decodeListing (preamble ++ [lenByte payload] ++ [cmd] ++ payload ++ rest) = .ok (classify cmd payload, rest) := by
  have hlen : (lenByte payload).toNat = payload.length + 1 := by
    simp only [lenByte, lenNat, BitVec.toNat_ofNat, maxPayload] at *
    omega
  have hne : lenByte payload ≠ 0#8 := by
    intro h0
    rw [h0] at hlen
    simp at hlen
  simp [decodeListing, preamble, hne, hlen]

/-- The bytes of a frame-format instruction in the domain of `encode`. -/
theorem encodeInstr_eq {r : Bool} {i : Instr} {bs : List Byte} {cmd : Byte} {payload : List Byte}
    (hc : commandOf i = some (cmd, payload)) (h : encodeInstr r i = some bs) :
    payload.length ≤ maxPayload ∧ bs = frameBytes r cmd payload := by
  simp only [encodeInstr, hc, encodeFrame] at h
  split at h
  · next hn => exact ⟨hn, (Option.some.inj h).symm⟩
  · cases h

/-- The header and payload of an encoded instruction read back as its row, the checksum bytes left over. -/
def ListingRoundTrip.Statement (i : Instr) : Prop :=
  ∀ (r : Bool) (bs : List Byte), encodeInstr r i = some bs →
    ∃ cmd payload, commandOf i = some (cmd, payload) ∧
      decodeListing bs = .ok (i.specific, be16 (crc16 r (body cmd payload)))

theorem ListingRoundTrip.of_command {i : Instr} {cmd : Byte} {payload : List Byte}
    (hc : commandOf i = some (cmd, payload)) : ListingRoundTrip.Statement i := by
  intro r bs h
  obtain ⟨hn, rfl⟩ := encodeInstr_eq hc h
  refine ⟨cmd, payload, hc, ?_⟩
  simp only [Instr.specific, hc, frameBytes]
  exact decodeListing_frame cmd payload _ hn

theorem ListingRoundTrip.of_operation {i : Instr} (hc : commandOf i = none) : ListingRoundTrip.Statement i := by
  intro r bs h
  simp [encodeInstr, hc] at h

theorem ListingRoundTrip.frame (cmd : Byte) (payload : List Byte) : ListingRoundTrip.Statement (.frame cmd payload) :=
  ListingRoundTrip.of_command rfl

theorem ListingRoundTrip.txctl (on : Bool) : ListingRoundTrip.Statement (.txctl on) := ListingRoundTrip.of_command rfl

theorem ListingRoundTrip.freq (hz : Hz) : ListingRoundTrip.Statement (.freq hz) := ListingRoundTrip.of_command rfl

theorem ListingRoundTrip.mode (id : Byte) : ListingRoundTrip.Statement (.mode id) := ListingRoundTrip.of_command rfl

theorem ListingRoundTrip.status : ListingRoundTrip.Statement .status := ListingRoundTrip.of_command rfl

theorem ListingRoundTrip.reset : ListingRoundTrip.Statement .reset := ListingRoundTrip.of_operation rfl

theorem ListingRoundTrip.crcInit : ListingRoundTrip.Statement .crcInit := ListingRoundTrip.of_operation rfl

theorem ListingRoundTrip.crcBit (d : Bool) : ListingRoundTrip.Statement (.crcBit d) := ListingRoundTrip.of_operation rfl

theorem ListingRoundTrip.crcByte (b : Byte) : ListingRoundTrip.Statement (.crcByte b) := ListingRoundTrip.of_operation rfl

theorem ListingRoundTrip.crcRead : ListingRoundTrip.Statement .crcRead := ListingRoundTrip.of_operation rfl

theorem ListingRoundTrip.encStart (cmd : Byte) (payload : List Byte) :
    ListingRoundTrip.Statement (.encStart cmd payload) := ListingRoundTrip.of_operation rfl

theorem ListingRoundTrip.encStep : ListingRoundTrip.Statement .encStep := ListingRoundTrip.of_operation rfl

theorem ListingRoundTrip.encStatus : ListingRoundTrip.Statement .encStatus := ListingRoundTrip.of_operation rfl

theorem ListingRoundTrip.decStart : ListingRoundTrip.Statement .decStart := ListingRoundTrip.of_operation rfl

theorem ListingRoundTrip.decPush (b : Byte) : ListingRoundTrip.Statement (.decPush b) := ListingRoundTrip.of_operation rfl

theorem ListingRoundTrip.decEnd : ListingRoundTrip.Statement .decEnd := ListingRoundTrip.of_operation rfl

theorem ListingRoundTrip.decResult : ListingRoundTrip.Statement .decResult := ListingRoundTrip.of_operation rfl

end Sys2Proof.Laws
end

