-- ==== Sys2Proof/Tests/Slice0.lean ====
section
/-! SUPPORT. The model's own tests. Expected values are the spec's: 95_test_vectors.md and the examples of the rules
named; none is the model's own answer. After them, one witness for the hypotheses of each statement. -/

namespace Sys2Proof.Tests

-- one theorem at a time: a kernel evaluation each, and a thread each would be too many
set_option Elab.async false

open Sys2Proof Sys2Proof.Machine

/-- A configuration with the illustration offsets of 95_test_vectors.md (they are no device's layout). -/
def testCfg (r : Bool) : Config where
  crcReflect := r
  modes := Mode.listing
  rxWindow := 262
  rxTimeout := 1
  statusModeOffset := 0
  statusFreqOffset := 1
  statusFreqWidth := 4
  statusWidthText := []

/-- The machine after power-on under that configuration. -/
def base (r : Bool) : State := { State.reset with cfg := testCfg r }

/-- The outcome is a next state that satisfies `p`. -/
def nextIs (x : Result) (p : State → Bool) : Bool :=
  match x with
  | .next s => p s
  | .fault _ => false
  | .refused _ => false

theorem exists_next {x : Result} {p : State → Bool} (h : nextIs x p = true) : ∃ t, x = .next t ∧ p t = true := by
  cases x with
  | next t => exact ⟨t, rfl, h⟩
  | fault _ => cases h
  | refused _ => cases h

/-- A run of the operations from `base r` ends in a state that satisfies `p`. -/
def runIs (r : Bool) (is : List Instr) (p : State → Bool) : Bool := nextIs (runOps is (base r)) p

/-! ### Well-formedness: one ill-formed term for each check -/

theorem test_frame_payload_255_ill_formed : (Instr.frame 0x55 (List.replicate 255 0)).wellFormed = false := by decide +kernel

theorem test_frame_payload_254_well_formed : (Instr.frame 0x55 (List.replicate 254 0)).wellFormed = true := by decide +kernel

theorem test_mode_9_ill_formed : (Instr.mode 9).wellFormed = false := by decide +kernel

theorem test_mode_8_well_formed : (Instr.mode 8).wellFormed = true := by decide +kernel

theorem test_config_short_table_ill_formed : ({ testCfg true with modes := [.usb] } : Config).wellFormed = false := by
  decide +kernel

theorem test_config_repeated_mode_ill_formed :
    ({ testCfg true with modes := [.usb, .lsb, .cwr, .cwl, .am, .wfm, .nfm, .digi, .digi] } : Config).wellFormed =
      false := by decide +kernel

theorem test_config_usb_not_first_ill_formed :
    ({ testCfg true with modes := [.lsb, .usb, .cwr, .cwl, .am, .wfm, .nfm, .digi, .pkt] } : Config).wellFormed =
      false := by decide +kernel

/-! ### Decoding: frames written out byte by byte (95_test_vectors.md V-E1, V-M1, V-M5, V-M8; R=1) -/

theorem test_decode_frame :
    decodeWire true [0xA5, 0xA5, 0xA5, 0xA5, 0x03, 0x01, 0x02, 0x03, 0x7D, 0x1B] = .ok (.frame 0x01 [0x02, 0x03]) := by
  decide +kernel

theorem test_decode_frame_unreflected :
    decodeWire false [0xA5, 0xA5, 0xA5, 0xA5, 0x03, 0x01, 0x02, 0x03, 0x7E, 0x2D] = .ok (.frame 0x01 [0x02, 0x03]) := by
  decide +kernel

theorem test_decode_txctl :
    decodeWire true [0xA5, 0xA5, 0xA5, 0xA5, 0x02, 0x07, 0x01, 0xD0, 0x0A] = .ok (.txctl false) := by decide +kernel

theorem test_decode_freq :
    decodeWire true [0xA5, 0xA5, 0xA5, 0xA5, 0x09, 0x09, 0x00, 0xD6, 0xC0, 0x90, 0x00, 0xD6, 0xC0, 0x90, 0x79, 0x32] =
      .ok (.freq 14074000) := by decide +kernel

theorem test_decode_mode :
    decodeWire true [0xA5, 0xA5, 0xA5, 0xA5, 0x03, 0x0A, 0x08, 0x08, 0x17, 0x1E] = .ok (.mode 8) := by decide +kernel

theorem test_decode_status :
    decodeWire false [0xA5, 0xA5, 0xA5, 0xA5, 0x01, 0x0B, 0x9F, 0x55] = .ok .status := by decide +kernel

/-- 30_encoding.md R67, U7: a listed CMD with an operand the command layer never builds is a plain frame. -/
theorem test_decode_txctl_operand_5 :
    decodeListing [0xA5, 0xA5, 0xA5, 0xA5, 0x02, 0x07, 0x05] = .ok (.frame 0x07 [0x05], []) := by decide +kernel

/-- 43_command_frames.md R161: 00 is on. The opcode table's word, most significant byte first. -/
theorem test_table_word_txctl : decodeTableWord 48 0xA5A5A5A50207 = some (.txctl true) := by decide +kernel

theorem test_table_word_freq : decodeTableWord 48 0xA5A5A5A50909 = some (.freq 0) := by decide +kernel

/-- 42_frame_decoder.md R139: LEN = 0 is illegal. -/
theorem test_table_word_len_0 : decodeTableWord 48 0xA5A5A5A50000 = none := by decide +kernel

theorem test_listing_bad_preamble : decodeListing [0xA5, 0xA5, 0xA5, 0xA4, 0x01, 0x0B] = .error .preamble := by
  decide +kernel

theorem test_listing_short : decodeListing [0xA5, 0xA5, 0xA5, 0xA5, 0x02, 0x07] = .error .short := by decide +kernel

/-- 95_test_vectors.md V-M3. -/
theorem test_encode_freq_0 :
    encodeInstr true (.freq 0) =
      some [0xA5, 0xA5, 0xA5, 0xA5, 0x09, 0x09, 0, 0, 0, 0, 0, 0, 0, 0, 0xEB, 0xBE] := by decide +kernel

/-! ### CRCG (40_crc_generator.md R96 to R99, 95_test_vectors.md V-C1) -/

theorem test_crc_check_value_reflected :
    crc16 true [0x31, 0x32, 0x33, 0x34, 0x35, 0x36, 0x37, 0x38, 0x39] = 0x6F91 := by decide +kernel

theorem test_crc_check_value_unreflected :
    crc16 false [0x31, 0x32, 0x33, 0x34, 0x35, 0x36, 0x37, 0x38, 0x39] = 0x29B1 := by decide +kernel

theorem test_crc_init : nextIs (exec .crcInit { base true with crc := 0x7D1B }) (fun s => s.crc == 0xFFFF) = true := by
  decide +kernel

theorem test_crc_bit_reflected : runIs true [.crcBit true] (fun s => s.crc == 0x7FFF) = true := by decide +kernel

theorem test_crc_bit_unreflected : runIs false [.crcBit false] (fun s => s.crc == 0xEFDF) = true := by decide +kernel

theorem test_crc_byte_reflected : runIs true [.crcByte 0x03] (fun s => s.crc == 0x3D1C) = true := by decide +kernel

theorem test_crc_byte_unreflected : runIs false [.crcByte 0x03] (fun s => s.crc == 0xD193) = true := by decide +kernel

theorem test_crc_read :
    runIs true [.crcByte 3, .crcByte 1, .crcByte 2, .crcByte 3, .crcRead] (fun s => s.ret == .crc 0x7D1B) = true := by
  decide +kernel

/-! ### FENC (41_frame_encoder.md R111, R112, R119, 95_test_vectors.md V-E8, P4) -/

theorem test_enc_start :
    runIs true [.encStart 0x0B []]
      (fun s => s.enc.len == 1 && s.enc.state == .pre && s.enc.crc == 0xFFFF && s.tx == []) = true := by
  decide +kernel

theorem test_enc_start_length :
    runIs true [.encStart 0x55 (List.replicate 255 0)]
      (fun s => s.ret == .start .length && s.enc.status == 1 && s.enc.state == .idle) = true := by decide +kernel

theorem test_enc_step_last :
    nextIs (exec .encStep { base true with enc := { Fenc.reset with state := .crcLo, crc := 0x57B3 } })
      (fun s => s.ret == .byte 0xB3 true && s.enc.state == .idle && s.tx == [0xB3]) = true := by decide +kernel

theorem test_enc_step_idle : runIs true [.encStep] (fun s => s.ret == .idle && s.tx == []) = true := by decide +kernel

theorem test_enc_status :
    runIs true [.encStart 7 [0], .encStart 7 [1], .encStatus] (fun s => s.ret == .encStatus .pre 2) = true := by
  decide +kernel

/-! ### FDEC (42_frame_decoder.md R131 to R134, 95_test_vectors.md V-D12) -/

theorem test_dec_start :
    nextIs (exec .decStart { base true with dec := { Fdec.reset with state := .err, cause := .checksum } })
      (fun s => s.dec.state == .pre && s.dec.cause == .none && s.dec.crc == 0xFFFF) = true := by decide +kernel

theorem test_dec_push_checksum :
    nextIs (exec (.decPush 0x1B)
        { base true with dec := { Fdec.reset with state := .crcLo, crc := 0x64C3, rxcrc := 0x7D00 } })
      (fun s => s.dec.rxcrc == 0x7D1B && s.dec.state == .err && s.dec.cause == .checksum) = true := by decide +kernel

theorem test_dec_push_length :
    nextIs (exec (.decPush 0) { base true with dec := { Fdec.reset with state := .len } })
      (fun s => s.dec.state == .err && s.dec.cause == .length) = true := by decide +kernel

theorem test_dec_end_short : runIs true [.decPush 0xA5, .decEnd] (fun s => s.dec.cause == .short) = true := by
  decide +kernel

theorem test_dec_end_after_ok :
    nextIs (exec .decEnd { base true with dec := { Fdec.reset with state := .ok } }) (fun s => s.dec.state == .ok) =
      true := by decide +kernel

theorem test_dec_result_ok :
    nextIs (exec .decResult
        { base true with dec := { Fdec.reset with state := .ok, cmd := 0x0B, n := 1, payRx := [(0, 9), (1, 8)] } })
      (fun s => s.ret == .decoded (.ok 0x0B [9])) = true := by decide +kernel

theorem test_dec_result_pending : runIs true [.decResult] (fun s => s.ret == .pending) = true := by decide +kernel

/-- 42_frame_decoder.md R151: the shortened frame that is accepted. -/
theorem test_decode_shortened_frame :
    decodeFrame true [0xA5, 0xA5, 0xA5, 0xA5, 0x01, 0x01, 0xF8, 0xE9, 0xB4, 0x37] = .ok 0x01 [] := by decide +kernel

/-! ### Command frames (43_command_frames.md R161 to R166, 95_test_vectors.md V-M9, V-M11, V-M14) -/

theorem test_encode_frame :
    encodeInstr true (.frame 0x01 [2, 3]) = some [0xA5, 0xA5, 0xA5, 0xA5, 0x03, 0x01, 0x02, 0x03, 0x7D, 0x1B] := by
  decide +kernel

theorem test_encode_txctl_on :
    encodeInstr true (.txctl true) = some [0xA5, 0xA5, 0xA5, 0xA5, 0x02, 0x07, 0x00, 0xC1, 0x83] := by decide +kernel

theorem test_encode_freq :
    encodeInstr false (.freq 12345678) =
      some [0xA5, 0xA5, 0xA5, 0xA5, 0x09, 0x09, 0x00, 0xBC, 0x61, 0x4E, 0x00, 0xBC, 0x61, 0x4E, 0x78, 0x03] := by
  decide +kernel

theorem test_encode_mode :
    encodeInstr true (.mode 3) = some [0xA5, 0xA5, 0xA5, 0xA5, 0x03, 0x0A, 0x03, 0x03, 0x4D, 0x65] := by decide +kernel

/-- A command operation starts its frame and emits nothing yet (00_scope.md R3). -/
theorem test_frame : runIs true [.frame 0x01 [2, 3]]
    (fun s => s.enc.len == 3 && s.enc.payTx == [(0, 2), (1, 3)] && s.exchange == .sending false 0 && s.tx == []) =
      true := by decide +kernel

theorem test_txctl : runIs true [.txctl true]
    (fun s => s.enc.cmd == 7 && s.enc.len == 2 && s.enc.payTx == [(0, 0)] && s.enc.state == .pre) = true := by
  decide +kernel

theorem test_freq : runIs false [.freq 12345678]
    (fun s => s.enc.len == 9 && s.enc.payTx ==
      [(0, 0x00), (1, 0xBC), (2, 0x61), (3, 0x4E), (4, 0x00), (5, 0xBC), (6, 0x61), (7, 0x4E)]) = true := by
  decide +kernel

theorem test_mode : runIs true [.mode 3]
    (fun s => s.enc.cmd == 0x0A && s.enc.payTx == [(0, 3), (1, 3)] && s.exchange == .sending false 0) = true := by
  decide +kernel

theorem test_status : runIs true [.status]
    (fun s => s.enc.cmd == 0x0B && s.enc.len == 1 && s.exchange == .sending true 0 && s.dec == Fdec.reset) = true := by
  decide +kernel

/-- The last byte of the `STATUS` frame (R164: 57 B3): the exchange goes on to the reply. -/
theorem test_exchange_query_sent :
    nextIs (advance { base true with
        enc := { Fenc.reset with state := .crcLo, crc := 0x57B3 }, exchange := .sending true 0 })
      (fun s => s.tx == [0xB3] && s.exchange == .reading) = true := by decide +kernel

/-- The last byte of a set command's frame: no reply is read (43_command_frames.md R160). -/
theorem test_exchange_set_command_ends :
    nextIs (advance { base true with
        enc := { Fenc.reset with state := .crcLo, crc := 0xC183 }, tx := [0xFF, 0xC1], exchange := .sending false 1 })
      (fun s => s.ret == .emitted [0xC1, 0x83] && s.exchange == .free) = true := by decide +kernel

/-- The device answers between the query and the return of the read. -/
theorem test_exchange_read_returns :
    nextIs (advance { base true with rx := [0xA5, 0xA5, 0xA5], exchange := .reading })
      (fun s => s.exchange == .pushing 3 && s.rx == [0xA5, 0xA5, 0xA5]) = true := by decide +kernel

theorem test_exchange_read_fails :
    nextIs (advance { base true with readFault := true, rx := [0xA5], exchange := .reading })
      (fun s => s.ret == .channelIOError && s.rx == [0xA5] && s.dec == Fdec.reset) = true := by decide +kernel

theorem test_exchange_push :
    nextIs (advance { base true with rx := [0xA5, 7], exchange := .pushing 2 })
      (fun s => s.dec.idx == 1 && s.rx == [7] && s.exchange == .pushing 1) = true := by decide +kernel

/-- A silent device: the read returns no byte, which is SHORT (43_command_frames.md R166). -/
theorem test_exchange_no_reply :
    nextIs (advance { base true with exchange := .pushing 0 })
      (fun s => s.dec.cause == .short && s.exchange == .result) = true := by decide +kernel

/-- 95_test_vectors.md V-M9: the reply payload `03 00 D6 C0 90`. -/
theorem test_exchange_result :
    nextIs (advance { base true with
        exchange := .result,
        dec := { Fdec.reset with
          state := .ok, cmd := 0x0B, n := 5, payRx := [(0, 3), (1, 0x00), (2, 0xD6), (3, 0xC0), (4, 0x90)] } })
      (fun s => s.ret == .status .cwl 14074000 && s.exchange == .free) = true := by decide +kernel

theorem test_exchange_fallback :
    nextIs (advance { base true with
        exchange := .result, dec := { Fdec.reset with state := .err, cause := .short } })
      (fun s => s.ret == .status .usb 0) = true := by decide +kernel

/-- 70_reset_and_hazards.md R220: the example, with a partial frame already in `TX`. -/
theorem test_reset :
    nextIs (exec .reset { base true with
        crc := 0x1234, tx := [0xA5], enc := { Fenc.reset with state := .pay },
        dec := { Fdec.reset with state := .err, cause := .checksum } })
      (fun s => s.enc.state == .idle && s.dec.state == .pre && s.dec.cause == .none && s.crc == 0xFFFF &&
        s.tx == [0xA5] && s.partialTx) = true := by decide +kernel

/-- Nothing of the frame is in `TX` yet, so nothing is left of it (R226). -/
theorem test_reset_before_first_byte :
    runIs true [.encStart 7 [0], .reset] (fun s => s.enc.state == .idle && !s.partialTx) = true := by decide +kernel

/-! ### Mode table and text lines (43_command_frames.md R168, R169, 95_test_vectors.md P5) -/

theorem test_mode_name_cwl : modeNameToId Config.hw [0x63, 0x77, 0x6C] = 3 := by decide +kernel

theorem test_mode_name_unknown : modeNameToId Config.hw [0x46, 0x4D] = 0 := by decide +kernel

theorem test_mode_of_unknown_id : modeOfId Config.hw 255 = .usb := by decide +kernel

/-- `M LSB 2400`. -/
theorem test_line_mode : lineAction Config.hw [0x4D, 0x20, 0x4C, 0x53, 0x42, 0x20, 0x32, 0x34, 0x30, 0x30] =
    .run (.mode 1) := by decide +kernel

/-- `F14074000`. -/
theorem test_line_frequency : lineAction Config.hw [0x46, 0x31, 0x34, 0x30, 0x37, 0x34, 0x30, 0x30, 0x30] =
    .run (.freq 14074000) := by decide +kernel

/-- `F-5` and `F4294967296` (93_implementation_defined.md U15). -/
theorem test_line_frequency_refused :
    lineAction Config.hw [0x46, 0x2D, 0x35] = .outOfDomain ∧
    lineAction Config.hw [0x46, 0x34, 0x32, 0x39, 0x34, 0x39, 0x36, 0x37, 0x32, 0x39, 0x36] = .outOfDomain := by
  decide +kernel

/-! ### Steps -/

/-- The device sends a byte, the requester pushes it: it is gone from `RX` (20_memory.md R45). -/
theorem test_step_device :
    nextIs (step { base true with inputs := [.device 0xA5] }) (fun s => s.rx == [0xA5] && s.inputs == []) = true := by
  decide +kernel

theorem test_step_fetched_word :
    nextIs (step ((base true).withFetchWord 48 0xA5A5A5A5010B))
      (fun s => s.enc.cmd == 0x0B && s.exchange == .sending true 0 && s.inputs == []) = true := by decide +kernel

/-- A command operation waits while an exchange is in flight, and the exchange goes on (20_memory.md R52). -/
theorem test_step_gate_held :
    nextIs (step { base true with inputs := [.op .status], exchange := .pushing 0 })
      (fun s => s.inputs == [.op .status] && s.exchange == .result) = true := by decide +kernel

/-- A turn is used up, and one byte goes out. -/
theorem test_step_turn :
    nextIs (step { base true with
        inputs := [.turn, .turn], exchange := .sending false 0, enc := { Fenc.reset with state := .pre } })
      (fun s => s.inputs == [.turn] && s.tx == [0xA5]) = true := by decide +kernel

theorem test_step_waits : nextIs (step (base true)) (fun s => decide (s = base true)) = true := by decide +kernel

/-- The power-on state itself runs a placed word. -/
theorem test_step_from_reset :
    nextIs (step (State.reset.withFetchWord 48 0xA5A5A5A50207))
      (fun s => s.ret == .start .accepted && s.enc.cmd == 7 && s.enc.payTx == [(0, 0)]) = true := by decide +kernel

/-! ### Witnesses: for each statement with hypotheses, data that meet all of them together, clause by clause -/

/-- FENC in `E_PAY` of a frame with command 5 and payload `[7, 8]`, at payload byte `k`; `k` is 0 or 1. -/
def inPay (r : Bool) (k : Byte) : Fenc where
  state := .pay
  idx := k
  cmd := 5
  n := 2
  len := 3
  crc := if k = 0 then crc16 r [3, 5] else crc16 r [3, 5, 7]
  status := 0
  payTx := [(0, 7), (1, 8)]

/-- FDEC in `D_PAY` of a frame with command 5 and two payload bytes, the first already received. -/
def inDecPay (r : Bool) : Fdec where
  state := .pay
  idx := 1
  len := 3
  n := 2
  cmd := 5
  crc := crc16 r [3, 5, 7]
  rxcrc := 0
  cause := .none
  payRx := [(0, 7)]

/-- Both units in the middle of a frame, flags set, a byte waiting in `RX`, an operation waiting. -/
def busy (r : Bool) : State :=
  { base r with enc := { inPay r 1 with status := 3 }, dec := inDecPay r, rx := [8], inputs := [.op (.decPush 8)] }

/-- FENC in another state of its sequencer. -/
def encAt (st : EState) (k : Byte) : State := { base true with enc := { inPay true 1 with state := st, idx := k } }

/-- FDEC in another state of its sequencer. -/
def decAt (st : DState) (k : Byte) : State := { base true with dec := { inDecPay true with state := st, idx := k } }

theorem witness_ResetWritesEveryRegister :
    (encAt .pay 0).enc.state ≠ .idle ∧ (encAt .pre 1).enc.state ≠ .idle ∧ (encAt .pre 1).enc.idx ≠ 0 := by decide +kernel

theorem witness_CrcBitShiftsTheRegister : (base true).reflect = true ∧ (base false).reflect = false := by decide +kernel

theorem witness_CrcByteIsEightBits : (busy true).reflect = true ∧ (busy false).reflect = false := by decide +kernel

theorem witness_CrcRunReturnsCrc16 :
    (base true).crc = crc16 (base true).reflect [] ∧
    ({ base false with crc := 0xD193 } : State).crc = crc16 (base false).reflect [3] := by decide +kernel

theorem witness_OneByteChangesTheCrc : (0 : Byte) ≠ 255 := by decide

theorem witness_EncStartEffects :
    ((base true).enc.state = .idle ∧ (List.replicate 254 (0 : Byte)).length ≤ 254) ∧
    ((busy true).enc.state ≠ .idle ∧ (encAt .crcLo 0).enc.state ≠ .idle) ∧
    ((base true).enc.state = .idle ∧ 254 < (List.replicate 255 (0 : Byte)).length) := by decide +kernel

theorem witness_PayTxHoldsOnlyThePayload : ∃ t : State,
    (base true).enc.state = .idle ∧ ([7] : List Byte).length ≤ 254 ∧
    exec (.encStart 5 [7]) (base true) = .next t ∧ ([7] : List Byte).length ≤ 1 :=
  ⟨_, rfl, by decide, rfl, by decide⟩

theorem witness_EncStepEffects :
    (base true).enc.state = .idle ∧
    ((encAt .pre 2).enc.state = .pre ∧ (encAt .pre 2).enc.idx ≠ 3) ∧
    ((encAt .pre 3).enc.state = .pre ∧ (encAt .pre 3).enc.idx = 3) ∧
    (encAt .len 0).enc.state = .len ∧ (encAt .cmd 0).enc.state = .cmd ∧
    ((encAt .pay 1).enc.state = .pay ∧ (encAt .pay 1).enc.idx < (encAt .pay 1).enc.n ∧
      (encAt .pay 1).enc.payTx.read (encAt .pay 1).enc.idx.toNat = some 8 ∧
      (encAt .pay 1).enc.idx = (encAt .pay 1).enc.n - 1) ∧
    ((encAt .pay 0).enc.state = .pay ∧ (encAt .pay 0).enc.idx < (encAt .pay 0).enc.n ∧
      (encAt .pay 0).enc.payTx.read (encAt .pay 0).enc.idx.toNat = some 7 ∧
      (encAt .pay 0).enc.idx ≠ (encAt .pay 0).enc.n - 1) ∧
    (encAt .crcHi 0).enc.state = .crcHi ∧ (encAt .crcLo 0).enc.state = .crcLo := by decide +kernel

theorem witness_UnitsFaultOnlyAtTheBuffers_encStep :
    (encAt .pay 2).enc.state = .pay ∧ (encAt .pay 2).enc.n ≤ (encAt .pay 2).enc.idx := by decide +kernel

theorem witness_EncoderEmitsExactlyEncode :
    (base false).enc.state = .idle ∧ (List.replicate 254 (0 : Byte)).length ≤ 254 ∧
    0 < 8 ∧ 8 ≤ ([] : List Byte).length + 8 ∧ (frameBytes true 0x0B [])[8 - 1]? = some 0xB3 := by decide +kernel

/-- The last byte of an 8-byte frame, after seven steps and one operation of every other kind. -/
theorem witness_InterleavedOperationsLeaveTheFrame : ∃ t : State,
    (base true).enc.state = .idle ∧ ([] : List Byte).length ≤ 254 ∧
    (∀ i ∈ Instr.encStatus :: .decPush 1 :: .crcByte 1 :: .encStart 1 [] :: List.replicate 7 .encStep,
      isEncOp i = true ∨ isDecOp i = true ∨ isCrcOp i = true) ∧
    (Instr.encStatus :: .decPush 1 :: .crcByte 1 :: .encStart 1 [] :: List.replicate 7 .encStep).count .encStep ≤ 0 + 7 ∧
    runOps (.encStart 0x0B [] :: ((Instr.encStatus :: .decPush 1 :: .crcByte 1 :: .encStart 1 [] ::
      List.replicate 7 .encStep) ++ [.encStep])) (base true) = .next t :=
  ⟨_, rfl, by decide, by decide +kernel, by decide +kernel, rfl⟩

theorem witness_FrameLayout :
    (List.replicate 254 (0 : Byte)).length ≤ 254 ∧ 254 < (List.replicate 255 (0 : Byte)).length := by decide +kernel

theorem witness_DecPushEffects :
    ((decAt .pre 0).dec.state = .pre ∧ (0xA4 : Byte) ≠ 0xA5) ∧
    ((decAt .pre 3).dec.state = .pre ∧ (decAt .pre 3).dec.idx = 3) ∧
    ((decAt .pre 2).dec.state = .pre ∧ (decAt .pre 2).dec.idx ≠ 3) ∧
    (decAt .len 0).dec.state = .len ∧ (1 : Byte) ≠ 0 ∧ (decAt .cmd 0).dec.state = .cmd ∧
    ((decAt .pay 1).dec.state = .pay ∧ (decAt .pay 1).dec.idx.toNat ≤ 253 ∧
      (decAt .pay 1).dec.idx = (decAt .pay 1).dec.n - 1) ∧
    ((decAt .pay 253).dec.state = .pay ∧ (decAt .pay 253).dec.idx.toNat ≤ 253 ∧
      (decAt .pay 253).dec.idx ≠ (decAt .pay 253).dec.n - 1) ∧
    (decAt .crcHi 0).dec.state = .crcHi ∧
    ({ Fdec.reset with state := .crcLo, crc := 0x7D1B, rxcrc := 0x7D00 } : Fdec).crc =
      (0x7D00 : Word).extractLsb' 8 8 ++ (0x1B : Byte) ∧
    ({ Fdec.reset with state := .crcLo, crc := 0x7D1B, rxcrc := 0x7D00 } : Fdec).crc ≠
      (0x7D00 : Word).extractLsb' 8 8 ++ (0x1A : Byte) ∧
    (decAt .ok 0).dec.state = .ok ∧ (decAt .err 0).dec.state = .err := by decide +kernel

theorem witness_UnitsFaultOnlyAtTheBuffers_decPush :
    (decAt .pay 254).dec.state = .pay ∧ 253 < (decAt .pay 254).dec.idx.toNat := by decide +kernel

theorem witness_PushTakesOneRxByte : ∃ t : State, exec (.decPush 8) (busy true) = .next t := ⟨_, rfl⟩

theorem witness_DecEndEffect :
    ((busy true).dec.state ≠ .ok ∧ (busy true).dec.state ≠ .err) ∧
    (decAt .ok 0).dec.state = .ok ∧ (decAt .err 0).dec.state = .err := by decide +kernel

/-- FDEC with the verdict `Ok(5, [7])`. -/
def decOk : State := { base true with dec := { inDecPay true with state := .ok, n := 1, len := 2 } }

theorem witness_DecResultReturnsTheVerdict :
    (decOk.dec.state = .ok ∧ ([7] : List Byte).length = decOk.dec.n.toNat ∧
      ∀ i, i < ([7] : List Byte).length → decOk.dec.payRx.read i = ([7] : List Byte)[i]?) ∧
    (decAt .err 0).dec.state = .err ∧
    ((busy true).dec.state ≠ .ok ∧ (busy true).dec.state ≠ .err) := by decide +kernel

theorem witness_UnitsFaultOnlyAtTheBuffers_decResult :
    (decAt .ok 0).dec.state = .ok ∧ 1 < (decAt .ok 0).dec.n.toNat ∧ (decAt .ok 0).dec.payRx.read 1 = none := by
  decide +kernel

theorem witness_EarlyVerdictIsDecodeOfTheWhole : ∃ t : State,
    runOps (.decStart :: ([0] : List Byte).map .decPush) (base true) = .next t ∧
    (t.dec.state = .ok ∨ t.dec.state = .err) := ⟨_, rfl, .inr rfl⟩

/-- The other verdict, after a whole frame (95_test_vectors.md V-M5). -/
theorem witness_EarlyVerdictIsDecodeOfTheWhole_ok : ∃ t : State,
    runOps (.decStart :: ([0xA5, 0xA5, 0xA5, 0xA5, 0x01, 0x0B, 0x57, 0xB3] : List Byte).map .decPush) (base true) =
      .next t ∧ t.dec.state = .ok := by
  obtain ⟨t, ht, hp⟩ := exists_next (p := fun t => decide (t.dec.state = .ok)) (x := runOps (.decStart ::
    ([0xA5, 0xA5, 0xA5, 0xA5, 0x01, 0x0B, 0x57, 0xB3] : List Byte).map .decPush) (base true)) (by decide +kernel)
  exact ⟨t, ht, of_decide_eq_true hp⟩

theorem witness_DecodeOfEncode : (List.replicate 254 (0xA5 : Byte)).length ≤ 254 := by decide +kernel

theorem witness_TruncatedFrameIsShort :
    ([2, 3] : List Byte).length ≤ 254 ∧ 9 < (frameBytes true 1 [2, 3]).length := by decide +kernel

theorem witness_TrailingBytesAreIgnored :
    decodeFrame true [0xA5, 0xA5, 0xA5, 0xA5, 0x01, 0x0B, 0x57, 0xB3] = .ok 0x0B [] := by decide +kernel

theorem witness_PreambleAndLengthAreCheckedFirst :
    3 < 4 ∧ ([0xA5, 0xA5, 0xA5, 0xA4] : List Byte)[3]? = some 0xA4 ∧ (0xA4 : Byte) ≠ 0xA5 := by decide

theorem witness_ChecksumDecides :
    (0x01 : Byte).toNat = ([] : List Byte).length + 1 ∧
    crc16 true [0x01, 0x0B] = (0x57 : Byte) ++ (0xB3 : Byte) ∧
    crc16 true [0x01, 0x0B] ≠ (0x57 : Byte) ++ (0xB2 : Byte) := by decide +kernel

/-- One frame, `encode(01, [F8, E9])`, and a mutation in each row of 42_frame_decoder.md R151. -/
theorem witness_OneByteMutationTable :
    ([0xF8, 0xE9] : List Byte).length ≤ 254 ∧
    ((frameBytes true 0x01 [0xF8, 0xE9])[3]? = some 0xA5 ∧ (0xA4 : Byte) ≠ 0xA5 ∧ 3 < 4) ∧
    ((frameBytes true 0x01 [0xF8, 0xE9])[4]? = some 0x03 ∧ (0 : Byte) ≠ 0x03) ∧
    ((4 : Byte) ≠ 0x03 ∧ ([0xF8, 0xE9] : List Byte).length + 1 < (4 : Byte).toNat) ∧
    ((1 : Byte) ≠ 0x03 ∧ 0 < (1 : Byte).toNat ∧ (1 : Byte).toNat < ([0xF8, 0xE9] : List Byte).length + 1 ∧
      crc16 true (1 :: ((frameBytes true 0x01 [0xF8, 0xE9]).drop 5).take 1) =
        (frameBytes true 0x01 [0xF8, 0xE9]).getD 6 0 ++ (frameBytes true 0x01 [0xF8, 0xE9]).getD 7 0) ∧
    ((2 : Byte) ≠ 0x03 ∧ 0 < (2 : Byte).toNat ∧ (2 : Byte).toNat < ([0xF8, 0xE9] : List Byte).length + 1 ∧
      crc16 true (2 :: ((frameBytes true 0x01 [0xF8, 0xE9]).drop 5).take 2) ≠
        (frameBytes true 0x01 [0xF8, 0xE9]).getD 7 0 ++ (frameBytes true 0x01 [0xF8, 0xE9]).getD 8 0) ∧
    ((frameBytes true 0x01 [0xF8, 0xE9])[5]? = some 0x01 ∧ (0x02 : Byte) ≠ 0x01 ∧ 5 ≤ 5) ∧
    ((frameBytes true 0x01 [0xF8, 0xE9])[9]? = some 0x37 ∧ (0x36 : Byte) ≠ 0x37 ∧ 5 ≤ 9) := by decide +kernel

theorem witness_FrameCommandEmitsEncode :
    (base true).enc.state = .idle ∧ (List.replicate 254 (0 : Byte)).length ≤ 254 := by decide +kernel

theorem witness_SetCommandsEmitTheirFrames : (base false).enc.state = .idle ∧ (8 : Byte).toNat ≤ 8 := by decide +kernel

theorem witness_CommandsAreRefusedLikeTheirStart :
    (busy true).enc.state ≠ .idle ∧ (8 : Byte).toNat ≤ 8 ∧
    (base true).enc.state = .idle ∧ 254 < (List.replicate 255 (0 : Byte)).length := by decide +kernel

theorem witness_ModeRefusesIdentifiersAboveEight : 8 < (9 : Byte).toNat ∧ ¬8 < (8 : Byte).toNat := by decide

/-- Every phase of an exchange, and the unit operation it runs. -/
theorem witness_ExchangeStepsAreUnitOperations :
    (base true).exchange = .free ∧
    (∃ u, exec .encStep { encAt .pay 0 with exchange := .sending true 0 } = .next u ∧ u.enc.state ≠ .idle) ∧
    (∃ u, exec .encStep { encAt .crcLo 0 with exchange := .sending true 0 } = .next u ∧ u.enc.state = .idle) ∧
    (∃ u, exec .encStep { encAt .crcLo 0 with exchange := .sending false 0 } = .next u ∧ u.enc.state = .idle) ∧
    (∃ u, ({ base true with exchange := .reading } : State).readFault = false ∧
      exec .decStart { base true with exchange := .reading } = .next u) ∧
    (∃ u, exec (.decPush 7) { base true with exchange := .pushing 1, rx := [7] } = .next u) ∧
    (∃ u, exec .decEnd { base true with exchange := .pushing 1 } = .next u) ∧
    (∃ u, exec .decResult { base true with exchange := .result } = .next u ∧ u.ret = .pending) ∧
    (∃ u, exec .decResult { decAt .err 0 with exchange := .result } = .next u ∧ u.ret = .decoded (.malformed .none)) :=
  ⟨rfl, ⟨_, rfl, by decide +kernel⟩, ⟨_, rfl, by decide +kernel⟩, ⟨_, rfl, by decide +kernel⟩, ⟨_, rfl, rfl⟩, ⟨_, rfl⟩,
    ⟨_, rfl⟩, ⟨_, rfl, rfl⟩, ⟨_, rfl, rfl⟩⟩

/-- The moves of every other agent between the turns of a command's frame. -/
def otherMoves : List Input :=
  [.turn, .device 7, .op (.crcByte 1), .turn, .op (.decPush 7), .op .encStatus, .channelReadFault]

theorem witness_OtherAgentsLeaveTheCommandsFrame : ∃ t : State,
    (base true).enc.state = .idle ∧ (base true).exchange = .free ∧ ([] : List Byte).length ≤ 254 ∧
    (∀ m ∈ otherMoves, m = .turn ∨ m = .channelReadFault ∨ (∃ b, m = .device b) ∨
      (∃ i, m = .op i ∧ (isDecOp i = true ∨ isCrcOp i = true ∨ i = .encStatus))) ∧
    runSteps (otherMoves.length + 1) { base true with inputs := .op (.frame 0x0B []) :: (otherMoves ++ []) } = .next t := by
  obtain ⟨t, ht, -⟩ := exists_next (p := fun _ => true) (x := runSteps (otherMoves.length + 1)
    { base true with inputs := .op (.frame 0x0B []) :: (otherMoves ++ []) }) (by decide +kernel)
  refine ⟨t, rfl, rfl, by decide, ?_, ht⟩
  intro m hm
  simp only [otherMoves, List.mem_cons, List.not_mem_nil, or_false] at hm
  rcases hm with rfl | rfl | rfl | rfl | rfl | rfl | rfl <;> simp [isDecOp, isCrcOp]

/-- From `base true`: the eight steps after STATUS lead to a reading exchange and a working channel. -/
theorem witness_StatusQueriesAndParses : (base true).enc.state = .idle ∧ ∃ v : State,
    Result.andThen (exec .status (base true)) (exchangeSteps 8) = .next v ∧ v.readFault = false := by
  obtain ⟨v, hv, hp⟩ := exists_next (p := fun v => !v.readFault)
    (x := Result.andThen (exec .status (base true)) (exchangeSteps 8)) (by decide +kernel)
  exact ⟨rfl, v, hv, by simpa using hp⟩

/-- 95_test_vectors.md V-M13, V-M11, V-M9. -/
theorem witness_ReplyParsesOrFallsBack :
    decodeFrame (testCfg true).crcReflect [0, 0, 0] = .malformed .preamble ∧
    (decodeFrame (testCfg true).crcReflect [0xA5, 0xA5, 0xA5, 0xA5, 0x02, 0x0B, 0x03, 0x5A, 0xB8] = .ok 0x0B [3] ∧
      ([3] : List Byte).length < (testCfg true).statusFreqOffset + (testCfg true).statusFreqWidth) ∧
    (decodeFrame (testCfg true).crcReflect [0xA5, 0xA5, 0xA5, 0xA5, 0x01, 0x0B, 0x57, 0xB3] = .ok 0x0B [] ∧
      ([] : List Byte).length ≤ (testCfg true).statusModeOffset) ∧
    (decodeFrame (testCfg true).crcReflect
        [0xA5, 0xA5, 0xA5, 0xA5, 0x06, 0x0B, 0x03, 0x00, 0xD6, 0xC0, 0x90, 0x1C, 0x5E] =
        .ok 0x0B [3, 0, 0xD6, 0xC0, 0x90] ∧
      ([3, 0, 0xD6, 0xC0, 0x90] : List Byte)[(testCfg true).statusModeOffset]? = some 3 ∧
      ([3, 0, 0xD6, 0xC0, 0x90] : List Byte) = [3] ++ [0, 0xD6, 0xC0, 0x90] ++ [] ∧
      ([3] : List Byte).length = (testCfg true).statusFreqOffset ∧
      ([0, 0xD6, 0xC0, 0x90] : List Byte).length = (testCfg true).statusFreqWidth) := by decide +kernel

theorem witness_ModeLookupsAreInverse :
    Config.hw.wellFormed = true ∧ 8 < 9 ∧ 9 ≤ 9 ∧ Config.hw.modes[8]? = some .pkt ∧
    ([0x75, 0x73, 0x62] : List Byte).map upperCase = ([0x55, 0x73, 0x42] : List Byte).map upperCase := by
  decide +kernel

theorem witness_ModeLookupsAreInverse_unknown_name :
    ∀ m : Mode, modeName m ≠ ([0x46, 0x4D] : List Byte).map upperCase := by
  intro m
  cases m <;> decide +kernel

theorem witness_DecodeOfEncodedInstruction :
    ((Instr.mode 8).wellFormed = true ∧
      encodeInstr true (.mode 8) = some [0xA5, 0xA5, 0xA5, 0xA5, 0x03, 0x0A, 0x08, 0x08, 0x17, 0x1E]) ∧
    (∀ c p, Instr.mode 8 ≠ .frame c p) ∧
    ((Instr.frame 0x0C []).wellFormed = true ∧ (encodeInstr true (.frame 0x0C [])).isSome = true ∧
      (0x0C : Byte) ≠ 0x07 ∧ (0x0C : Byte) ≠ 0x09 ∧ (0x0C : Byte) ≠ 0x0A ∧ (0x0C : Byte) ≠ 0x0B) :=
  ⟨by decide +kernel, fun _ _ => Instr.noConfusion, by decide +kernel⟩

theorem witness_ListingIsReadOrRefusedByCause :
    (3 < 4 ∧ ([0xA5, 0xA5, 0xA5, 0xA4] : List Byte)[3]? = some 0xA4 ∧ (0xA4 : Byte) ≠ 0xA5) ∧
    (∀ b ∈ ([0xA5, 0xA5, 0xA5, 0xA5] : List Byte).take 4, b = 0xA5) ∧
    ([0xA5, 0xA5, 0xA5, 0xA5] : List Byte).length ≤ 4 ∧
    ([0xA5, 0xA5, 0xA5, 0xA5, 2, 7] : List Byte).drop 4 = 2 :: [7] ∧ ([7] : List Byte).length < (2 : Byte).toNat ∧
    (2 : Byte).toNat = ([1] : List Byte).length + 1 ∧ ([7, 1, 9] : List Byte) = 7 :: ([1] ++ [9]) := by decide +kernel

theorem witness_EncodedHeaderBelongsToItsRow :
    (Instr.txctl true).wellFormed = true ∧
    encodeInstr true (.txctl true) = some [0xA5, 0xA5, 0xA5, 0xA5, 0x02, 0x07, 0x00, 0xC1, 0x83] := by decide +kernel

theorem witness_StepRunsTheDecodedInstruction :
    (busy true).inputs = .op (.decPush 8) :: [] ∧
    ({ base true with inputs := [.listing [0xA5, 0xA5, 0xA5, 0xA5, 0x01, 0x0B]] } : State).inputs =
      .listing [0xA5, 0xA5, 0xA5, 0xA5, 0x01, 0x0B] :: [] ∧
    decodeListing [0xA5, 0xA5, 0xA5, 0xA5, 0x01, 0x0B] = .ok (.status, []) ∧
    decodeListing [0xA5, 0xA5, 0xA5, 0xA5, 0x00] = .error .length ∧
    ({ base true with inputs := [.device 1] } : State).inputs = .device 1 :: [] ∧
    ({ base true with inputs := [.channelReadFault] } : State).inputs = .channelReadFault :: [] ∧
    ({ base true with inputs := [.turn] } : State).inputs = .turn :: [] ∧
    commandOf (.decPush 8) = none ∧ (base true).exchange = .free ∧
    commandOf .status ≠ none ∧ ({ base true with exchange := .reading } : State).exchange ≠ .free ∧
    (base true).inputs = [] := by decide +kernel

theorem witness_OneByteAStep : ∃ t : State, step (busy true) = .next t := ⟨_, rfl⟩

/-- A state that meets the invariant in the middle of two frames. -/
theorem busy_inv : Inv (busy true) := by
  refine ⟨⟨⟨by decide +kernel, ?_⟩, ?_⟩, ⟨⟨by decide +kernel, ?_⟩, ?_, ?_⟩⟩
  · intro c hc
    simp only [busy, inPay, List.mem_cons, List.not_mem_nil, or_false] at hc
    rcases hc with rfl | rfl <;> decide
  · exact ⟨⟨by decide +kernel, by decide +kernel, by decide +kernel⟩, by decide +kernel, by decide +kernel⟩
  · intro c hc
    simp only [busy, inDecPay, List.mem_cons, List.not_mem_nil, or_false] at hc
    subst hc
    decide
  · decide +kernel
  · exact ⟨⟨by decide +kernel, by decide +kernel⟩, by decide +kernel, [7], by decide +kernel, by decide +kernel⟩

theorem witness_StepKeepsTheInvariant : Inv (busy true) ∧ ∃ t : State, step (busy true) = .next t :=
  ⟨busy_inv, _, rfl⟩

theorem witness_NoStepFaultsUnderTheInvariant : Inv (busy true) := busy_inv

theorem witness_ConfigurationNeverChanges : ∃ t : State, step (busy false) = .next t := ⟨_, rfl⟩

/-- FENC and FDEC as in `busy`, under an exchange that is sending. -/
def busySending : State := { busy true with exchange := .sending false 0 }

theorem witness_FlagsAreClearedOnlyByReset : ∃ t u : State,
    (Instr.encStep ≠ .reset ∧ exec .encStep (busy true) = .next t) ∧ advance busySending = .next u ∧
    eErrLen busySending.enc.status = true ∧ eErrBusy busySending.enc.status = true :=
  ⟨_, _, ⟨by decide, rfl⟩, rfl, by decide +kernel, by decide +kernel⟩

theorem witness_VerdictIsLeftOnlyByStartOrReset : ∃ t u v : State,
    (decOk.dec.state = .ok ∨ decOk.dec.state = .err) ∧
    (Instr.decPush 1 ≠ .decStart ∧ Instr.decPush 1 ≠ .reset ∧ exec (.decPush 1) decOk = .next t) ∧
    advance { decOk with exchange := .pushing 0 } = .next u ∧
    advance { decOk with exchange := .reading, readFault := true } = .next v :=
  ⟨_, _, _, .inl rfl, ⟨by decide, by decide, rfl⟩, rfl, rfl⟩

theorem witness_TxOnlyGrows : ∃ t u : State,
    exec .encStep (busy true) = .next t ∧ advance busySending = .next u := ⟨_, _, rfl, rfl⟩

theorem busySending_txInv : TxInv { busySending with tx := [0xA5, 0xA5, 0xA5, 0xA5, 3, 5, 7] } := fun _ =>
  ⟨[], ⟨[], fun _ h => absurd h List.not_mem_nil, rfl⟩, by decide +kernel⟩

theorem witness_StepKeepsTheTxInvariant : ∃ t : State,
    Inv { busySending with tx := [0xA5, 0xA5, 0xA5, 0xA5, 3, 5, 7] } ∧
    TxInv { busySending with tx := [0xA5, 0xA5, 0xA5, 0xA5, 3, 5, 7] } ∧
    step { busySending with tx := [0xA5, 0xA5, 0xA5, 0xA5, 3, 5, 7] } = .next t :=
  ⟨_, busy_inv, busySending_txInv, rfl⟩

/-- One whole frame, 95_test_vectors.md V-M5. -/
theorem witness_DoneMeansWholeFrames :
    TxInv { base true with tx := [0xA5, 0xA5, 0xA5, 0xA5, 0x01, 0x0B, 0x57, 0xB3] } ∧
    EncoderDone { base true with tx := [0xA5, 0xA5, 0xA5, 0xA5, 0x01, 0x0B, 0x57, 0xB3] } :=
  ⟨fun _ => ⟨[0xA5, 0xA5, 0xA5, 0xA5, 0x01, 0x0B, 0x57, 0xB3],
    ⟨[(0x0B, [])], fun f h => by rw [List.mem_singleton.mp h]; decide, by decide +kernel⟩, by decide +kernel⟩, rfl, rfl⟩

theorem witness_DoneMeansWholeFrames_partial : ∃ t u : State,
    ((busy true).enc.state ≠ .idle ∧ ((encAt .pre 1).enc.state ≠ .idle ∧ (encAt .pre 1).enc.idx ≠ 0) ∧
      exec .reset (busy true) = .next t) ∧
    (({ base true with partialTx := true } : State).partialTx = true ∧
      step { base true with partialTx := true } = .next u) :=
  ⟨_, _, ⟨by decide +kernel, by decide +kernel, rfl⟩, rfl, rfl⟩

theorem witness_BuffersHaveOneWriter : ∃ t u : State,
    exec .encStep (busy true) = .next t ∧ Instr.encStep ≠ .reset ∧ (∀ c p, Instr.encStep ≠ .encStart c p) ∧
    commandOf .encStep = none ∧ (∀ b, Instr.encStep ≠ .decPush b) ∧
    advance busySending = .next u ∧ (∀ k, busySending.exchange ≠ .pushing k) :=
  ⟨_, _, rfl, by decide, fun _ _ => Instr.noConfusion, rfl, fun _ => Instr.noConfusion, rfl,
    fun _ => Exchange.noConfusion⟩

theorem witness_UnitsAreIndependent : ∃ t : State,
    (∀ i ∈ [Instr.encStep, .decPush 8, .crcByte 1], isEncOp i = true ∨ isDecOp i = true ∨ isCrcOp i = true) ∧
    runOps [.encStep, .decPush 8, .crcByte 1] (busy true) = .next t ∧
    [Instr.encStep, .decPush 8, .crcByte 1].getLast? = some (.crcByte 1) ∧ isCrcOp (.crcByte 1) = true ∧
    [Instr.encStep].getLast? = some .encStep ∧ isEncOp .encStep = true ∧
    [Instr.decPush 8].getLast? = some (.decPush 8) ∧ isDecOp (.decPush 8) = true :=
  ⟨_, by decide, rfl, rfl, rfl, rfl, rfl, rfl, rfl⟩

theorem witness_TextLinesAskForTheirFrames :
    ([0x4C, 0x53, 0x42] : List Byte) ≠ [] ∧ ([0x30] : List Byte) ≠ [] ∧
    (∀ b ∈ ([0x4C, 0x53, 0x42] : List Byte) ++ [0x30], isBlank b = false) ∧ ([7] : List (Fin 10)) ≠ [] := by
  decide +kernel

end Sys2Proof.Tests
end

section
/-! What an instruction, a step of an exchange and a step of the machine do to the two byte streams. -/

namespace Sys2Proof.Machine

/-- The streams of `t` are those of `s` with at most one byte moved: taken or received, or emitted. -/
def MovesOneByte (s t : State) : Prop :=
  (t.tx = s.tx ∧ (t.rx = s.rx ∨ t.rx = s.rx.tail ∨ ∃ b : Byte, t.rx = s.rx ++ [b])) ∨
  (t.rx = s.rx ∧ ∃ b : Byte, t.tx = s.tx ++ [b])

theorem MovesOneByte.of_same {s t : State} (htx : t.tx = s.tx) (hrx : t.rx = s.rx) : MovesOneByte s t :=
  .inl ⟨htx, .inl hrx⟩

/-- Only the streams count, so an update of other fields may follow. -/
theorem MovesOneByte.congr_right {s t u : State} (h : MovesOneByte s t) (htx : u.tx = t.tx) (hrx : u.rx = t.rx) :
    MovesOneByte s u := by
  simpa only [MovesOneByte, htx, hrx] using h

theorem encStep_movesOneByte {s t : State} (h : encStep s = .next t) : MovesOneByte s t := by
  obtain ⟨e, o, -, ⟨-, rfl⟩ | ⟨b, last, -, rfl⟩⟩ := encStep_next h
  · exact .of_same rfl rfl
  · exact .inr ⟨rfl, b, rfl⟩

theorem decPush_movesOneByte {b : Byte} {s t : State} (h : decPush b s = .next t) : MovesOneByte s t := by
  obtain ⟨d, -, rfl⟩ := decPush_next h
  exact .inl ⟨rfl, .inr (.inl rfl)⟩

theorem decResult_movesOneByte {s t : State} (h : decResult s = .next t) : MovesOneByte s t := by
  obtain ⟨-, rfl⟩ | ⟨v, -, rfl⟩ := decResult_next h <;> exact .of_same rfl rfl

theorem startExchange_movesOneByte {query : Bool} {cmd : Byte} {payload : List Byte} {s t : State}
    (h : startExchange query cmd payload s = .next t) : MovesOneByte s t := by
  obtain ⟨-, e⟩ | ⟨-, e⟩ := startExchange_cases query cmd payload s <;> rw [e] at h <;> cases h <;>
    exact .of_same rfl rfl

/-- 00_scope.md R3 for an instruction: only ENC.STEP emits and only DEC.PUSH takes. -/
theorem exec_movesOneByte {i : Instr} {s t : State} (h : exec i s = .next t) : MovesOneByte s t := by
  cases i with
  | frame cmd payload => exact startExchange_movesOneByte h
  | txctl on => exact startExchange_movesOneByte h
  | freq hz => exact startExchange_movesOneByte h
  | status => exact startExchange_movesOneByte h
  | mode id =>
    simp only [exec, execMode] at h
    split at h
    · exact startExchange_movesOneByte h
    · cases h
  | encStep => exact encStep_movesOneByte h
  | decPush b => exact decPush_movesOneByte h
  | decResult => exact decResult_movesOneByte h
  | reset | crcInit | crcBit _ | crcByte _ | crcRead | encStart _ _ | encStatus | decStart | decEnd =>
    cases h; exact .of_same rfl rfl

theorem frameSent_tx (query : Bool) (start : Nat) (s : State) : (frameSent query start s).tx = s.tx := by
  cases query <;> rfl

theorem frameSent_rx (query : Bool) (start : Nat) (s : State) : (frameSent query start s).rx = s.rx := by
  cases query <;> rfl

theorem sendStep_movesOneByte {query : Bool} {start : Nat} {s t : State} (h : sendStep query start s = .next t) :
    MovesOneByte s t := by
  obtain ⟨u, hu, ⟨-, rfl⟩ | ⟨-, rfl⟩⟩ := sendStep_next h
  · exact (encStep_movesOneByte hu).congr_right (frameSent_tx ..) (frameSent_rx ..)
  · exact encStep_movesOneByte hu

theorem readReturns_movesOneByte {s t : State} (h : readReturns s = .next t) : MovesOneByte s t := by
  obtain ⟨-, e⟩ | ⟨-, e⟩ := readReturns_cases s <;> rw [e] at h <;> cases h <;> exact .of_same rfl rfl

theorem pushStep_movesOneByte {left : Nat} {s t : State} (h : pushStep left s = .next t) : MovesOneByte s t := by
  obtain ⟨k, b, rest, u, -, -, hu, rfl⟩ | ⟨-, rfl⟩ := pushStep_next h
  · exact (decPush_movesOneByte hu).congr_right rfl rfl
  · exact .of_same rfl rfl

theorem resultStep_movesOneByte {s t : State} (h : resultStep s = .next t) : MovesOneByte s t := by
  obtain ⟨-, rfl⟩ | ⟨d, -, rfl⟩ := resultStep_next h <;> exact .of_same rfl rfl

/-- 00_scope.md R3 for a step of an exchange: each is one unit operation or the return of the read. -/
theorem advance_movesOneByte {s t : State} (h : advance s = .next t) : MovesOneByte s t := by
  obtain ⟨-, rfl⟩ | ⟨query, start, -, h⟩ | ⟨-, h⟩ | ⟨left, -, h⟩ | ⟨-, h⟩ := advance_next h
  · exact .of_same rfl rfl
  · exact sendStep_movesOneByte h
  · exact readReturns_movesOneByte h
  · exact pushStep_movesOneByte h
  · exact resultStep_movesOneByte h

/-- A step is an instruction, a step of the exchange, a byte of the device or the news of a failing read. -/
theorem step_movesOneByte {s t : State} (h : step s = .next t) : MovesOneByte s t := by
  have skip {rest : List Input} : MovesOneByte (s.setInputs rest) t → MovesOneByte s t := id
  obtain ⟨i, rest, h⟩ | ⟨rest, h⟩ | ⟨b, rest, rfl⟩ | ⟨rest, rfl⟩ := step_next h
  · exact skip (exec_movesOneByte h)
  · exact skip (advance_movesOneByte h)
  · exact .inl ⟨rfl, .inr (.inr ⟨b, rfl⟩)⟩
  · exact .of_same rfl rfl

/-- Settles O47, which is `MovesOneByte` written out, by the four things a step can be. -/
theorem oneByteAStep : Obligations.OneByteAStep := by
  intro s t h
  exact step_movesOneByte h

end Sys2Proof.Machine
end

section
/-! The layout of a frame (20_memory.md R46) and the bytes at its offsets. -/

namespace Sys2Proof.Machine

theorem lenByte_toNat {payload : List Byte} (h : payload.length ≤ maxPayload) :
    (lenByte payload).toNat = payload.length + 1 := by
  simp only [maxPayload] at h
  simp only [lenByte, lenNat, BitVec.toNat_ofNat]
  omega

@[simp] theorem frameBytes_length (r : Bool) (cmd : Byte) (payload : List Byte) :
    (frameBytes r cmd payload).length = payload.length + 8 := by
  simp [frameBytes, preamble, be16]

/-- A frame as one list of its single bytes, but for the payload. -/
theorem frameBytes_eq_cons (r : Bool) (cmd : Byte) (payload : List Byte) :
    frameBytes r cmd payload = preambleByte :: preambleByte :: preambleByte :: preambleByte :: lenByte payload ::
      cmd :: (payload ++ [hi8 (crc16 r (body cmd payload)), lo8 (crc16 r (body cmd payload))]) := by
  simp [frameBytes, preamble, be16]

theorem frameBytes_getElem?_preamble (r : Bool) (cmd : Byte) (payload : List Byte) {i : Nat} (h : i < 4) :
    (frameBytes r cmd payload)[i]? = some preambleByte := by
  rw [frameBytes_eq_cons]
  match i, h with
  | 0, _ | 1, _ | 2, _ | 3, _ => rfl

theorem frameBytes_getElem?_len (r : Bool) (cmd : Byte) (payload : List Byte) :
    (frameBytes r cmd payload)[4]? = some (lenByte payload) := by
  rw [frameBytes_eq_cons]; rfl

theorem frameBytes_getElem?_cmd (r : Bool) (cmd : Byte) (payload : List Byte) :
    (frameBytes r cmd payload)[5]? = some cmd := by
  rw [frameBytes_eq_cons]; rfl

/-- From offset 6 on: the payload and the two checksum bytes. -/
theorem frameBytes_getElem?_add_six (r : Bool) (cmd : Byte) (payload : List Byte) (i : Nat) :
    (frameBytes r cmd payload)[6 + i]? =
      (payload ++ [hi8 (crc16 r (body cmd payload)), lo8 (crc16 r (body cmd payload))])[i]? := by
  rw [frameBytes_eq_cons, Nat.add_comm]; rfl

theorem frameBytes_getElem?_payload (r : Bool) (cmd : Byte) (payload : List Byte) {i : Nat}
    (h : i < payload.length) : (frameBytes r cmd payload)[6 + i]? = payload[i]? := by
  rw [frameBytes_getElem?_add_six, List.getElem?_append_left h]

theorem frameBytes_getElem?_crcHi (r : Bool) (cmd : Byte) (payload : List Byte) :
    (frameBytes r cmd payload)[6 + payload.length]? = some (hi8 (crc16 r (body cmd payload))) := by
  simp [frameBytes_getElem?_add_six]

theorem frameBytes_getElem?_crcLo (r : Bool) (cmd : Byte) (payload : List Byte) :
    (frameBytes r cmd payload)[7 + payload.length]? = some (lo8 (crc16 r (body cmd payload))) := by
  rw [show 7 + payload.length = 6 + (payload.length + 1) by omega, frameBytes_getElem?_add_six]
  simp

end Sys2Proof.Machine
end

section
/-! The buffers while a frame is in progress: a payload written to the empty buffer, and reads of a buffer that lists
its indexes without a gap. -/

namespace Sys2Proof.Machine

/-- A write above every listed index goes to the end. -/
theorem Memory.write_eq_append {m : Memory} {i : Nat} (b : Byte) (h : ∀ c ∈ m, c.1 < i) :
    m.write i b = m ++ [(i, b)] := by
  induction m with
  | nil => rfl
  | cons c rest ih =>
    obtain ⟨hc, hrest⟩ := List.forall_mem_cons.mp h
    obtain ⟨k, v⟩ := c
    have hk : k < i := hc
    simp only [Memory.write]
    rw [if_neg (by omega), if_neg (by omega), ih hrest, List.cons_append]

/-- A run written above every listed index goes to the end, under its own indexes. -/
theorem Memory.writeFrom_eq_append (bs : List Byte) {m : Memory} {i : Nat} (h : ∀ c ∈ m, c.1 < i) :
    m.writeFrom i bs = m ++ (List.range' i bs.length).zip bs := by
  induction bs generalizing m i with
  | nil => simp [Memory.writeFrom]
  | cons b bs ih =>
    have hw : ∀ c ∈ m ++ [(i, b)], c.1 < i + 1 := by
      intro c hc
      rcases List.mem_append.mp hc with hc | hc
      · exact Nat.lt_succ_of_lt (h c hc)
      · simp [List.mem_singleton.mp hc]
    rw [Memory.writeFrom, Memory.write_eq_append b h, ih hw]
    simp [List.range'_succ]

theorem Memory.writeFrom_nil_indexes (bs : List Byte) :
    (Memory.writeFrom [] 0 bs).map Prod.fst = List.range bs.length := by
  rw [Memory.writeFrom_eq_append bs (by simp), List.nil_append, List.map_fst_zip (by simp), List.range_eq_range']

theorem Memory.writeFrom_nil_values (bs : List Byte) : (Memory.writeFrom [] 0 bs).map Prod.snd = bs := by
  rw [Memory.writeFrom_eq_append bs (by simp), List.nil_append, List.map_snd_zip (by simp)]

theorem Memory.writeFrom_nil_inv {bs : List Byte} (h : bs.length ≤ maxPayload) :
    Memory.inv (Memory.writeFrom [] 0 bs) := by
  refine ⟨Memory.wf_writeFrom bs [] 0 Memory.wf_nil, fun c hc => ?_⟩
  have hmem : c.1 ∈ List.range bs.length := Memory.writeFrom_nil_indexes bs ▸ List.mem_map_of_mem hc
  exact Nat.lt_of_lt_of_le (List.mem_range.mp hmem) h

/-- A buffer without a gap reads like the list of its values. -/
theorem Memory.read_of_indexes_range' {m : Memory} {a n : Nat} (h : m.map Prod.fst = List.range' a n) (i : Nat) :
    m.read (a + i) = (m.map Prod.snd)[i]? := by
  induction m generalizing a n i with
  | nil => rfl
  | cons c rest ih =>
    obtain ⟨k, v⟩ := c
    cases n with
    | zero => simp at h
    | succ n =>
      obtain ⟨rfl, hrest⟩ : k = a ∧ rest.map Prod.fst = List.range' (a + 1) n := by
        simpa [List.range'_succ] using h
      cases i with
      | zero => simp [Memory.read]
      | succ i =>
        have hi : k + (i + 1) = k + 1 + i := by omega
        simp only [Memory.read]
        rw [if_neg (by omega), hi, ih hrest]
        rfl

end Sys2Proof.Machine
end

section
/-! FENC while a frame is in progress: its start meets the invariant, and from a state that meets it each ENC.STEP emits
the next byte of `encode` and keeps the invariant (41_frame_encoder.md R111, R112, R113). -/

namespace Sys2Proof.Machine

/-- FENC right after an accepted start (41_frame_encoder.md R111). -/
def Fenc.started (cmd : Byte) (payload : List Byte) (flags : BitVec 2) : Fenc :=
  ⟨.pre, 0, cmd, BitVec.ofNat 8 payload.length, lenByte payload, crcInitValue, flags, Memory.writeFrom [] 0 payload⟩

theorem fencStart_of_idle {cmd : Byte} {payload : List Byte} {e : Fenc} (hs : e.state = .idle)
    (hn : payload.length ≤ maxPayload) : fencStart cmd payload e = (Fenc.started cmd payload e.status, .accepted) := by
  rcases fencStart_cases cmd payload e with ⟨h, -⟩ | ⟨-, h, -⟩ | ⟨-, -, h⟩
  · exact absurd hs h
  · omega
  · exact h

section
variable {cmd : Byte} {payload : List Byte} {flags : BitVec 2}

@[simp] theorem Fenc.started_progress : (Fenc.started cmd payload flags).progress = 0 := rfl

@[simp] theorem Fenc.started_payload : (Fenc.started cmd payload flags).payload = payload :=
  Memory.writeFrom_nil_values payload

theorem Fenc.started_frameInv (hn : payload.length ≤ maxPayload) : (Fenc.started cmd payload flags).frameInv := by
  have hlen : (BitVec.ofNat 8 payload.length).toNat = payload.length := by
    simp only [maxPayload] at hn
    rw [BitVec.toNat_ofNat]
    omega
  simp only [Fenc.frameInv, Fenc.started, hlen]
  exact ⟨hn, lenByte_toNat hn, Memory.writeFrom_nil_indexes payload⟩

theorem Fenc.started_inv (r : Bool) (hn : payload.length ≤ maxPayload) : (Fenc.started cmd payload flags).inv r :=
  ⟨Memory.writeFrom_nil_inv hn, Fenc.started_frameInv hn, Nat.zero_le _, (crc16_nil r).symm⟩

end

section
variable {r : Bool} {e e' : Fenc}

theorem Fenc.frameInv.payload_length (h : e.frameInv) : e.payload.length = e.n.toNat := by
  obtain ⟨-, -, hidx⟩ := h
  simpa [Fenc.payload] using congrArg List.length hidx

theorem Fenc.frameInv.len_eq (h : e.frameInv) : e.len = lenByte e.payload := by
  have hp := h.payload_length
  obtain ⟨hn, hlen, -⟩ := h
  exact BitVec.eq_of_toNat_eq (by rw [lenByte_toNat (by omega), hp, hlen])

theorem Fenc.frameInv.body_eq (h : e.frameInv) : e.len :: e.cmd :: e.payload = body e.cmd e.payload := by
  rw [h.len_eq, body]

/-- Below `e_n` the buffer holds the payload (10_state.md R31). -/
theorem Fenc.frameInv.fencPayload_eq (h : e.frameInv) (hi : e.idx.toNat < e.n.toNat) :
    fencPayload e = e.payload[e.idx.toNat]? := by
  obtain ⟨-, -, hidx⟩ := h
  rw [List.range_eq_range'] at hidx
  rw [fencPayload, if_pos (BitVec.lt_def.mpr hi), ← Nat.zero_add e.idx.toNat, Memory.read_of_indexes_range' hidx,
    Fenc.payload, Nat.zero_add]

/-- Whatever state it is in, FENC with the invariant and a frame in progress has the frame's own part of it. -/
theorem Fenc.inv.frameInv (h : e.inv r) (hs : e.state ≠ .idle) : e.frameInv := by
  obtain ⟨-, h⟩ := h
  cases hst : e.state <;> simp only [hst] at h
  case idle => exact absurd hst hs
  all_goals exact h.1

/-- ENC.STEP writes neither the operands of its frame nor the flags. -/
theorem fencStep_keeps {o : Option (Byte × Bool)} (h : fencStep r e = .ok (e', o)) :
    e'.cmd = e.cmd ∧ e'.n = e.n ∧ e'.len = e.len ∧ e'.status = e.status ∧ e'.payTx = e.payTx := by
  rcases fencStep_cases h with ⟨-, rfl, -⟩ | ⟨-, -, rfl, -⟩ | ⟨-, -, rfl, -⟩ | ⟨-, rfl, -⟩ | ⟨-, rfl, -⟩ |
    ⟨b, -, -, -, rfl, -⟩ | ⟨b, -, -, -, rfl, -⟩ | ⟨-, rfl, -⟩ | ⟨-, rfl, -⟩ <;> exact ⟨rfl, rfl, rfl, rfl, rfl⟩

/-- With the invariant ENC.STEP does not fault, and with a frame in progress it emits a byte. -/
theorem fencStep_emits_of_inv (h : e.inv r) (hs : e.state ≠ .idle) :
    ∃ e' b last, fencStep r e = .ok (e', some (b, last)) := by
  have hf := h.frameInv hs
  obtain ⟨-, h⟩ := h
  unfold fencStep
  cases hst : e.state <;> simp only [hst] at h ⊢
  case idle => exact absurd hst hs
  case pre => split <;> exact ⟨_, _, _, rfl⟩
  case pay =>
    obtain ⟨-, hi, -⟩ := h
    have hp : e.idx.toNat < e.payload.length := hf.payload_length ▸ hi
    rw [hf.fencPayload_eq hi, List.getElem?_eq_getElem hp]
    dsimp only
    split <;> exact ⟨_, _, _, rfl⟩
  all_goals exact ⟨_, _, _, rfl⟩

/-- `e_idx` counts up inside a frame without a wrap. -/
theorem byte_toNat_succ {i : Byte} (h : i.toNat < 255) : (i + 1).toNat = i.toNat + 1 := by bv_omega

/-- R112's test for the last payload byte, as a count. -/
theorem byte_eq_sub_one_iff {i n : Byte} (h : i.toNat < n.toNat) : i = n - 1 ↔ i.toNat + 1 = n.toNat := by bv_omega

/-- The byte ENC.STEP emits is the next one of `encode` (41_frame_encoder.md R113). -/
theorem fencStep_byte {b : Byte} {last : Bool} (h : e.inv r) (hstep : fencStep r e = .ok (e', some (b, last))) :
    (frameBytes r e.cmd e.payload)[e.progress]? = some b := by
  have hs : e.state ≠ .idle := by rintro hs; simp [fencStep, hs] at hstep
  have hf := h.frameInv hs
  obtain ⟨-, h⟩ := h
  rcases fencStep_cases hstep with ⟨hst, -, -⟩ | ⟨hst, hi, -, ho⟩ | ⟨hst, hi, -, ho⟩ | ⟨hst, -, ho⟩ | ⟨hst, -, ho⟩ |
    ⟨c, hst, hc, -, -, ho⟩ | ⟨c, hst, hc, -, -, ho⟩ | ⟨hst, -, ho⟩ | ⟨hst, -, ho⟩
  · exact absurd hst hs
  all_goals
    simp only [hst] at h
    obtain ⟨rfl, -⟩ := Prod.mk.inj (Option.some.inj ho)
    simp only [Fenc.progress, hst]
  · exact frameBytes_getElem?_preamble _ _ _ (by omega)
  · exact frameBytes_getElem?_preamble _ _ _ (by omega)
  · rw [frameBytes_getElem?_len, hf.len_eq]
  · exact frameBytes_getElem?_cmd _ _ _
  · rw [frameBytes_getElem?_payload _ _ _ (hf.payload_length ▸ h.2.1), ← hf.fencPayload_eq h.2.1, hc]
  · rw [frameBytes_getElem?_payload _ _ _ (hf.payload_length ▸ h.2.1), ← hf.fencPayload_eq h.2.1, hc]
  · rw [← hf.payload_length, frameBytes_getElem?_crcHi, xor_crcXorOut, h.2, hf.body_eq]
  · rw [← hf.payload_length, frameBytes_getElem?_crcLo, xor_crcXorOut, h.2, hf.body_eq]

/-- ENC.STEP moves a frame in progress one byte on, or back to `E_IDLE` after its last byte, the one it marks. -/
theorem fencStep_progress {b : Byte} {last : Bool} (h : e.inv r) (hstep : fencStep r e = .ok (e', some (b, last))) :
    (e.progress = e.n.toNat + 7 ∧ last = true ∧ e'.state = .idle) ∨
    (e.progress < e.n.toNat + 7 ∧ last = false ∧ e'.state ≠ .idle ∧ e'.progress = e.progress + 1) := by
  obtain ⟨-, h⟩ := h
  rcases fencStep_cases hstep with ⟨-, -, ho⟩ | ⟨hst, hi, rfl, ho⟩ | ⟨hst, hi, rfl, ho⟩ | ⟨hst, rfl, ho⟩ | ⟨hst, rfl, ho⟩ |
    ⟨c, hst, -, hi, rfl, ho⟩ | ⟨c, hst, -, hi, rfl, ho⟩ | ⟨hst, rfl, ho⟩ | ⟨hst, rfl, ho⟩
  · cases ho
  all_goals
    simp only [hst] at h
    obtain ⟨-, rfl⟩ := Prod.mk.inj (Option.some.inj ho)
    simp only [Fenc.progress, hst]
  · exact .inr ⟨by rw [hi]; simp, trivial, nofun, by rw [hi]; rfl⟩
  · obtain ⟨-, hle, -⟩ := h
    have hne : e.idx.toNat ≠ 3 := fun h3 => hi (BitVec.eq_of_toNat_eq h3)
    exact .inr ⟨by omega, trivial, nofun, byte_toNat_succ (by omega)⟩
  · exact .inr ⟨by omega, trivial, nofun, trivial⟩
  · by_cases hn : e.n = 0
    · simp only [hn]
      exact .inr ⟨by simp, trivial, nofun, rfl⟩
    · simp only [if_neg hn]
      exact .inr ⟨by omega, trivial, nofun, rfl⟩
  · obtain ⟨-, hlt, -⟩ := h
    have hlast := (byte_eq_sub_one_iff hlt).mp hi
    exact .inr ⟨by omega, trivial, nofun, by omega⟩
  · obtain ⟨-, hlt, -⟩ := h
    have hmore := mt (byte_eq_sub_one_iff hlt).mpr hi
    have hidx := byte_toNat_succ (i := e.idx) (by omega)
    exact .inr ⟨by omega, trivial, nofun, by rw [hidx, Nat.add_assoc]⟩
  · exact .inr ⟨by omega, trivial, nofun, by omega⟩
  · exact .inl ⟨by omega, trivial, trivial⟩

/-- A payload byte added to the CRC: the register covers one byte more. -/
theorem Fenc.frameInv.crcByte_payload {b : Byte} (hf : e.frameInv) (hi : e.idx.toNat < e.n.toNat)
    (hb : fencPayload e = some b) (hc : e.crc = crc16 r (e.len :: e.cmd :: e.payload.take e.idx.toNat)) :
    crcByte r e.crc b = crc16 r (e.len :: e.cmd :: e.payload.take (e.idx.toNat + 1)) := by
  rw [hc, ← crc16_concat, List.take_add_one, ← hf.fencPayload_eq hi, hb]
  rfl

/-- ENC.STEP keeps FENC's invariant. -/
theorem fencStep_inv {o : Option (Byte × Bool)} (h : e.inv r) (hstep : fencStep r e = .ok (e', o)) : e'.inv r := by
  obtain ⟨hmem, h'⟩ := id h
  rcases fencStep_cases hstep with ⟨-, rfl, -⟩ | ⟨hst, -, rfl, -⟩ | ⟨hst, hi, rfl, -⟩ | ⟨hst, rfl, -⟩ | ⟨hst, rfl, -⟩ |
    ⟨b, hst, hb, hi, rfl, -⟩ | ⟨b, hst, hb, hi, rfl, -⟩ | ⟨hst, rfl, -⟩ | ⟨hst, rfl, -⟩
  · exact h
  all_goals simp only [hst] at h'
  · obtain ⟨hf, -, hc⟩ := h'
    exact ⟨hmem, hf, hc⟩
  · obtain ⟨hf, hle, hc⟩ := h'
    have hne : e.idx.toNat ≠ 3 := fun h3 => hi (BitVec.eq_of_toNat_eq h3)
    refine ⟨hmem, ?_⟩
    simp only [hst]
    exact ⟨hf, by rw [byte_toNat_succ (by omega)]; omega, hc⟩
  · obtain ⟨hf, hc⟩ := h'
    exact ⟨hmem, hf, by rw [hc, ← crc16_concat]; rfl⟩
  · obtain ⟨hf, hc⟩ := h'
    have hc' : crcByte r e.crc e.cmd = crc16 r [e.len, e.cmd] := by rw [hc, ← crc16_concat]; rfl
    refine ⟨hmem, ?_⟩
    by_cases hn : e.n = 0
    · have hp : e.payload = [] := List.length_eq_zero_iff.mp (by rw [hf.payload_length, hn]; rfl)
      simp only [if_pos hn]
      exact ⟨hf, hc'.trans (congrArg (fun p => crc16 r (e.len :: e.cmd :: p)) hp.symm)⟩
    · simp only [if_neg hn]
      exact ⟨hf, Nat.pos_of_ne_zero fun h0 => hn (BitVec.eq_of_toNat_eq h0), hc'⟩
  · obtain ⟨hf, hlt, hc⟩ := h'
    have hp : e.payload.take (e.idx.toNat + 1) = e.payload :=
      List.take_of_length_le (by rw [hf.payload_length, (byte_eq_sub_one_iff hlt).mp hi])
    exact ⟨hmem, hf, (hf.crcByte_payload hlt hb hc).trans (by rw [hp]; rfl)⟩
  · obtain ⟨hf, hlt, hc⟩ := h'
    have hmore := mt (byte_eq_sub_one_iff hlt).mpr hi
    have hn := e.n.isLt
    have hidx := byte_toNat_succ (i := e.idx) (by omega)
    refine ⟨hmem, ?_⟩
    simp only [hst]
    exact ⟨hf, by rw [hidx]; omega, (hf.crcByte_payload hlt hb hc).trans (by rw [hidx]; rfl)⟩
  · exact ⟨hmem, h'⟩
  · exact ⟨hmem, trivial⟩

end

end Sys2Proof.Machine
end

section
/-! Which waiting input the next step takes (70_reset_and_hazards.md R232), as an equation per kind of input. -/

namespace Sys2Proof.Machine

section
variable {s : State} {rest : List Input}

/-- An operation that needs no gate, or finds it free, runs. -/
theorem step_of_op {i : Instr} (h : s.inputs = .op i :: rest) (hg : needsGate i = false ∨ s.exchange = .free) :
    step s = exec i (s.setInputs rest) := by
  rcases hg with hg | hg <;> simp [step, nextMove, requested, State.gateHeld, h, hg]

theorem step_of_turn (h : s.inputs = .turn :: rest) : step s = advance (s.setInputs rest) := by
  simp [step, nextMove, h]

theorem step_of_device {b : Byte} (h : s.inputs = .device b :: rest) :
    step s = .next ((s.setInputs rest).receive b) := by
  simp [step, nextMove, h]

theorem step_of_channelReadFault (h : s.inputs = .channelReadFault :: rest) :
    step s = .next ((s.setInputs rest).setReadFault true) := by
  simp [step, nextMove, h]

end

end Sys2Proof.Machine
end

section
/-! The frame of a command operation in flight (30_encoding.md R77): its start, its steps, and what the other agents do
between them. -/

namespace Sys2Proof.Machine

/-- FENC is in the middle of the frame of `cmd` and `payload` and has emitted `k` of its bytes. -/
structure FencAt (r : Bool) (cmd : Byte) (payload : List Byte) (k : Nat) (e : Fenc) : Prop where
  inv : e.inv r
  busy : e.state ≠ .idle
  cmd_eq : e.cmd = cmd
  payload_eq : e.payload = payload
  progress_eq : e.progress = k

theorem Fenc.started_fencAt (r : Bool) {cmd : Byte} {payload : List Byte} {flags : BitVec 2}
    (hn : payload.length ≤ maxPayload) : FencAt r cmd payload 0 (Fenc.started cmd payload flags) :=
  ⟨Fenc.started_inv r hn, nofun, rfl, Fenc.started_payload, Fenc.started_progress⟩

/-- ENC.STEP in the middle of a frame: the next byte of `encode`, and FENC one byte on or, after the last, idle. -/
theorem FencAt.encStep_emits {cmd : Byte} {payload : List Byte} {k : Nat} {s : State}
    (h : FencAt s.reflect cmd payload k s.enc) :
    ∃ e b last, encStep s = .next (((s.setEnc e).emit b).answer (.byte b last)) ∧
      (frameBytes s.reflect cmd payload)[k]? = some b ∧ e.status = s.enc.status ∧
      ((k = payload.length + 7 ∧ last = true ∧ e.state = .idle) ∨
        (k < payload.length + 7 ∧ last = false ∧ FencAt s.reflect cmd payload (k + 1) e)) := by
  obtain ⟨hinv, hbusy, rfl, rfl, rfl⟩ := h
  obtain ⟨e, b, last, hstep⟩ := fencStep_emits_of_inv hinv hbusy
  obtain ⟨hcmd, -, -, hstatus, hpay⟩ := fencStep_keeps hstep
  rw [(hinv.frameInv hbusy).payload_length]
  refine ⟨e, b, last, by simp [encStep, hstep], fencStep_byte hinv hstep, hstatus, ?_⟩
  rcases fencStep_progress hinv hstep with hend | ⟨hlt, hlast, hbusy', hprog⟩
  · exact .inl hend
  · exact .inr ⟨hlt, hlast, fencStep_inv hinv hstep, hbusy', hcmd, congrArg (List.map Prod.snd) hpay, hprog⟩

/-- The exchange of a command that reads no reply, `k` turns after its start in `s₀`: it is sending its frame, or, from
turn `n + 8` on, the frame is out and the gate is free. -/
structure FrameInFlight (s₀ : State) (cmd : Byte) (payload : List Byte) (k : Nat) (s : State) : Prop where
  reflect_eq : s.reflect = s₀.reflect
  tx_eq : s.tx = s₀.tx ++ (frameBytes s₀.reflect cmd payload).take k
  phase :
    (k < payload.length + 8 ∧ FencAt s₀.reflect cmd payload k s.enc ∧ ∃ start, s.exchange = .sending false start) ∨
    (payload.length + 8 ≤ k ∧ s.exchange = .free)

section
variable {s₀ s t : State} {cmd : Byte} {payload : List Byte} {k : Nat}

theorem FrameInFlight.exchange_free_iff (h : FrameInFlight s₀ cmd payload k s) :
    s.exchange = .free ↔ payload.length + 8 ≤ k := by
  obtain ⟨-, -, ⟨hk, -, start, hx⟩ | ⟨hk, hx⟩⟩ := h
  · simp [hx, hk]
  · simp [hx, hk]

/-- FRAME with FENC idle begins its exchange. -/
theorem exec_frame_frameInFlight (hs : s.enc.state = .idle) (hn : payload.length ≤ maxPayload) :
    ∃ t, exec (.frame cmd payload) s = .next t ∧ FrameInFlight s cmd payload 0 t ∧ t.inputs = s.inputs := by
  refine ⟨((s.setEnc (Fenc.started cmd payload s.enc.status)).answer (.start .accepted)).setExchange
    (.sending false s.tx.length), ?_, ⟨rfl, by simp, .inl ⟨by omega, Fenc.started_fencAt _ hn, _, rfl⟩⟩, rfl⟩
  simp [exec, execFrame, startExchange, encStart, fencStart_of_idle hs hn]

/-- A turn of the exchange emits the frame's next byte, or finds the gate free and does nothing. -/
theorem FrameInFlight.advance_next (h : FrameInFlight s₀ cmd payload k s) :
    ∃ t, advance s = .next t ∧ FrameInFlight s₀ cmd payload (k + 1) t ∧ t.inputs = s.inputs := by
  obtain ⟨hr, htx, ⟨hk, hat, start, hx⟩ | ⟨hk, hx⟩⟩ := h
  · obtain ⟨e, b, last, hstep, hb, -, hphase⟩ := (hr ▸ hat : FencAt s.reflect cmd payload k s.enc).encStep_emits
    rw [hr] at hb hphase
    have htx' : s.tx ++ [b] = s₀.tx ++ (frameBytes s₀.reflect cmd payload).take (k + 1) := by
      rw [htx, List.append_assoc, List.take_add_one, hb, Option.toList_some]
    have hadv : advance s = Result.andThen (encStep s) fun t =>
        if t.enc.state = .idle then .next (frameSent false start t) else .next t := by
      simp only [advance, hx, sendStep]
    rw [hadv, hstep, andThen_next]
    rcases hphase with ⟨hlast, -, hidle⟩ | ⟨hlt, -, hat'⟩
    · exact ⟨_, if_pos hidle, ⟨hr, htx', .inr ⟨by omega, rfl⟩⟩, rfl⟩
    · exact ⟨_, if_neg hat'.busy, ⟨hr, htx', .inl ⟨by omega, hat', start, hx⟩⟩, rfl⟩
  · have hlen : (frameBytes s₀.reflect cmd payload).length ≤ k := by rw [frameBytes_length]; exact hk
    refine ⟨s, by simp only [advance, hx], ⟨hr, ?_, .inr ⟨by omega, hx⟩⟩, rfl⟩
    rw [htx, List.take_of_length_le hlen, List.take_of_length_le (by omega)]

/-- `t` differs from `s` in nothing that a frame in flight depends on. -/
structure SameFrame (s t : State) : Prop where
  enc_eq : t.enc = s.enc
  tx_eq : t.tx = s.tx
  cfg_eq : t.cfg = s.cfg
  exchange_eq : t.exchange = s.exchange

theorem FrameInFlight.of_sameFrame (h : FrameInFlight s₀ cmd payload k s) (hst : SameFrame s t) :
    FrameInFlight s₀ cmd payload k t := by
  obtain ⟨hr, htx, hphase⟩ := h
  obtain ⟨henc, htx', hcfg, hx⟩ := hst
  exact ⟨(congrArg Config.crcReflect hcfg).trans hr, htx'.trans htx, by rwa [henc, hx]⟩

/-- An operation that may stand between the steps of a frame (41_frame_encoder.md R113). -/
def IsOtherOp (i : Instr) : Prop := isDecOp i = true ∨ isCrcOp i = true ∨ i = .encStatus

theorem IsOtherOp.needsGate_eq {i : Instr} (hi : IsOtherOp i) : needsGate i = false := by
  cases i with
  | frame _ _ | txctl _ | freq _ | mode _ | status => simp [IsOtherOp, isDecOp, isCrcOp] at hi
  | _ => rfl

/-- An operation of FDEC or CRCG, or ENC.STATUS, leaves the frame in flight and the waiting inputs alone. -/
theorem exec_sameFrame {i : Instr} (hi : IsOtherOp i) (h : exec i s = .next t) :
    SameFrame s t ∧ t.inputs = s.inputs := by
  cases i with
  | decPush b => obtain ⟨d, -, rfl⟩ := decPush_next h; exact ⟨⟨rfl, rfl, rfl, rfl⟩, rfl⟩
  | decResult =>
    obtain ⟨-, rfl⟩ | ⟨v, -, rfl⟩ := decResult_next h <;> exact ⟨⟨rfl, rfl, rfl, rfl⟩, rfl⟩
  | crcInit | crcBit _ | crcByte _ | crcRead | encStatus | decStart | decEnd =>
    cases h; exact ⟨⟨rfl, rfl, rfl, rfl⟩, rfl⟩
  | frame _ _ | txctl _ | freq _ | mode _ | status | reset | encStart _ _ | encStep =>
    simp [IsOtherOp, isDecOp, isCrcOp] at hi

/-- A move of the device or of the requester between two turns of the exchange. -/
def IsOtherMove (m : Input) : Prop :=
  m = .channelReadFault ∨ (∃ b, m = .device b) ∨ ∃ i, m = .op i ∧ IsOtherOp i

theorem step_sameFrame {m : Input} {rest : List Input} (hm : IsOtherMove m) (hin : s.inputs = m :: rest)
    (h : step s = .next t) : SameFrame s t ∧ t.inputs = rest := by
  rcases hm with rfl | ⟨b, rfl⟩ | ⟨i, rfl, hi⟩
  · rw [step_of_channelReadFault hin] at h; cases h; exact ⟨⟨rfl, rfl, rfl, rfl⟩, rfl⟩
  · rw [step_of_device hin] at h; cases h; exact ⟨⟨rfl, rfl, rfl, rfl⟩, rfl⟩
  · rw [step_of_op hin (.inl hi.needsGate_eq)] at h
    obtain ⟨⟨henc, htx, hcfg, hx⟩, hinputs⟩ := exec_sameFrame hi h
    exact ⟨⟨henc, htx, hcfg, hx⟩, hinputs⟩

/-- Along any turns and other moves, the frame in flight goes on by exactly the turns. -/
theorem FrameInFlight.runSteps_moves {moves rest : List Input} (hmoves : ∀ m ∈ moves, m = .turn ∨ IsOtherMove m)
    (h : FrameInFlight s₀ cmd payload k s) (hin : s.inputs = moves ++ rest)
    (hrun : runSteps moves.length s = .next t) :
    FrameInFlight s₀ cmd payload (k + moves.count .turn) t ∧ t.inputs = rest := by
  induction moves generalizing s k with
  | nil => cases hrun; exact ⟨h, hin⟩
  | cons m moves ih =>
    obtain ⟨hm, htail⟩ := List.forall_mem_cons.mp hmoves
    rw [List.cons_append] at hin
    obtain ⟨u, hstep, hrest⟩ := andThen_eq_next.mp hrun
    rcases hm with rfl | hm
    · obtain ⟨v, hadv, hv, hvin⟩ := (h.of_sameFrame ⟨rfl, rfl, rfl, rfl⟩ :
        FrameInFlight s₀ cmd payload k (s.setInputs (moves ++ rest))).advance_next
      rw [step_of_turn hin, hadv] at hstep
      cases hstep
      rw [List.count_cons_self, Nat.add_comm _ 1, ← Nat.add_assoc]
      exact ih htail hv hvin hrest
    · obtain ⟨hsame, hu⟩ := step_sameFrame hm hin hstep
      have hne : m ≠ .turn := by rintro rfl; simp [IsOtherMove] at hm
      rw [List.count_cons_of_ne hne]
      exact ih htail (h.of_sameFrame hsame) hu hrest

end

/-- Settles O36: FRAME puts its frame in flight, and the moves after it carry it on by exactly their turns. -/
theorem otherAgentsLeaveTheCommandsFrame : Obligations.OtherAgentsLeaveTheCommandsFrame := by
  intro cmd payload moves rest s t hidle hfree hn hin hmoves hrun
  obtain ⟨u, hexec, hu, huin⟩ := exec_frame_frameInFlight (cmd := cmd) (s := s.setInputs (moves ++ rest)) hidle hn
  rw [runSteps_succ, step_of_op hin (.inr hfree), hexec, andThen_next] at hrun
  obtain ⟨ht, htin⟩ := hu.runSteps_moves hmoves huin hrun
  rw [Nat.zero_add] at ht
  exact ⟨ht.tx_eq, htin, ht.exchange_free_iff⟩

end Sys2Proof.Machine
end

section
/-! What a state transition may do to FENC and to FDEC: every instruction but RESET, and every step of an exchange, is
at most one operation of each unit (30_encoding.md R75, R77). -/

namespace Sys2Proof.Machine

/-- What one transition may do to FENC: nothing, ENC.START or ENC.STEP. -/
inductive FencMove (r : Bool) (e : Fenc) : Fenc → Prop where
  | stay : FencMove r e e
  | start (cmd : Byte) (payload : List Byte) : FencMove r e (fencStart cmd payload e).1
  | step {e' : Fenc} {o : Option (Byte × Bool)} (h : fencStep r e = .ok (e', o)) : FencMove r e e'

/-- What one transition may do to FDEC: nothing, DEC.PUSH, DEC.END or, only when `starts` holds, DEC.START. -/
inductive FdecMove (r : Bool) (starts : Prop) (d : Fdec) : Fdec → Prop where
  | stay : FdecMove r starts d d
  | start (h : starts) : FdecMove r starts d (fdecStart d)
  | push {b : Byte} {d' : Fdec} (h : fdecPush r b d = .ok d') : FdecMove r starts d d'
  | finish : FdecMove r starts d (fdecEnd d)

/-- From `s` to `t` each unit makes at most one of its own moves, and the configuration stays. -/
structure UnitMoves (starts : Prop) (s t : State) : Prop where
  cfg_eq : t.cfg = s.cfg
  enc : FencMove s.reflect s.enc t.enc
  dec : FdecMove s.reflect starts s.dec t.dec

section
variable {starts : Prop} {s t : State}

theorem UnitMoves.reflect_eq (h : UnitMoves starts s t) : t.reflect = s.reflect :=
  congrArg Config.crcReflect h.cfg_eq

theorem UnitMoves.of_same (hcfg : t.cfg = s.cfg) (henc : t.enc = s.enc) (hdec : t.dec = s.dec) :
    UnitMoves starts s t :=
  ⟨hcfg, henc ▸ .stay, hdec ▸ .stay⟩

theorem encStep_unitMoves (h : encStep s = .next t) : UnitMoves starts s t := by
  obtain ⟨e, o, he, ⟨-, rfl⟩ | ⟨b, last, -, rfl⟩⟩ := encStep_next h <;> exact ⟨rfl, .step he, .stay⟩

theorem decPush_unitMoves {b : Byte} (h : decPush b s = .next t) : UnitMoves starts s t := by
  obtain ⟨d, hd, rfl⟩ := decPush_next h
  exact ⟨rfl, .stay, .push hd⟩

theorem decResult_unitMoves (h : decResult s = .next t) : UnitMoves starts s t := by
  obtain ⟨-, rfl⟩ | ⟨v, -, rfl⟩ := decResult_next h <;> exact .of_same rfl rfl rfl

theorem startExchange_unitMoves {query : Bool} {cmd : Byte} {payload : List Byte}
    (h : startExchange query cmd payload s = .next t) : UnitMoves starts s t := by
  obtain ⟨-, e⟩ | ⟨-, e⟩ := startExchange_cases query cmd payload s <;> rw [e] at h <;> cases h <;>
    exact ⟨rfl, .start cmd payload, .stay⟩

/-- Every instruction but RESET moves each unit at most once, and only DEC.START starts FDEC. -/
theorem exec_unitMoves {i : Instr} (hi : i ≠ .reset) (h : exec i s = .next t) : UnitMoves (i = .decStart) s t := by
  cases i with
  | frame cmd payload => exact startExchange_unitMoves h
  | txctl on => exact startExchange_unitMoves h
  | freq hz => exact startExchange_unitMoves h
  | status => exact startExchange_unitMoves h
  | mode id =>
    simp only [exec, execMode] at h
    split at h
    · exact startExchange_unitMoves h
    · cases h
  | reset => exact absurd rfl hi
  | encStart cmd payload => cases h; exact ⟨rfl, .start cmd payload, .stay⟩
  | encStep => exact encStep_unitMoves h
  | decStart => cases h; exact ⟨rfl, .stay, .start rfl⟩
  | decPush b => exact decPush_unitMoves h
  | decEnd => cases h; exact ⟨rfl, .stay, .finish⟩
  | decResult => exact decResult_unitMoves h
  | crcInit | crcBit _ | crcByte _ | crcRead | encStatus => cases h; exact .of_same rfl rfl rfl

theorem sendStep_unitMoves {query : Bool} {start : Nat} (h : sendStep query start s = .next t) :
    UnitMoves starts s t := by
  obtain ⟨u, hu, ⟨-, rfl⟩ | ⟨-, rfl⟩⟩ := sendStep_next h
  · obtain ⟨hcfg, henc, hdec⟩ : UnitMoves starts s u := encStep_unitMoves hu
    cases query <;> exact ⟨hcfg, henc, hdec⟩
  · exact encStep_unitMoves hu

theorem readReturns_unitMoves (h : readReturns s = .next t) : UnitMoves (s.readFault = false) s t := by
  obtain ⟨-, e⟩ | ⟨hf, e⟩ := readReturns_cases s <;> rw [e] at h <;> cases h
  · exact .of_same rfl rfl rfl
  · exact ⟨rfl, .stay, .start hf⟩

theorem pushStep_unitMoves {left : Nat} (h : pushStep left s = .next t) : UnitMoves starts s t := by
  obtain ⟨k, b, rest, u, -, -, hu, rfl⟩ | ⟨-, rfl⟩ := pushStep_next h
  · obtain ⟨hcfg, henc, hdec⟩ : UnitMoves starts s u := decPush_unitMoves hu
    exact ⟨hcfg, henc, hdec⟩
  · exact ⟨rfl, .stay, .finish⟩

theorem resultStep_unitMoves (h : resultStep s = .next t) : UnitMoves starts s t := by
  obtain ⟨-, rfl⟩ | ⟨d, -, rfl⟩ := resultStep_next h <;> exact .of_same rfl rfl rfl

/-- Every step of an exchange moves each unit at most once, and only the return of a working read starts FDEC. -/
theorem advance_unitMoves (h : advance s = .next t) :
    UnitMoves (s.exchange = .reading ∧ s.readFault = false) s t := by
  obtain ⟨-, rfl⟩ | ⟨query, start, -, h⟩ | ⟨hx, h⟩ | ⟨left, -, h⟩ | ⟨-, h⟩ := advance_next h
  · exact .of_same rfl rfl rfl
  · exact sendStep_unitMoves h
  · simpa only [hx, true_and] using readReturns_unitMoves h
  · exact pushStep_unitMoves h
  · exact resultStep_unitMoves h

end

end Sys2Proof.Machine
end

section
/-! FDEC's invariant (10_state.md R13, R16, R18): the decoder's registers and `PAY_RX` cover the body bytes received so
far, and each operation of FDEC keeps it so. -/

namespace Sys2Proof.Machine

theorem Memory.inv_write {m : Memory} {i : Nat} {b : Byte} (h : m.inv) (hi : i < bufferSize) : (m.write i b).inv := by
  obtain ⟨hwf, hidx⟩ := h
  refine ⟨Memory.wf_write hwf, fun c hc => ?_⟩
  rcases Memory.mem_write hc with rfl | hc
  · exact hi
  · exact hidx c hc

/-- A byte written right after a run of bytes that hold values makes the run one longer. -/
theorem Memory.readFrom_write_end {m : Memory} {i k : Nat} {bs : List Byte} (b : Byte) (h : m.readFrom i k = some bs) :
    (m.write (i + k) b).readFrom i (k + 1) = some (bs ++ [b]) := by
  obtain ⟨rfl, hall⟩ := Memory.readFrom_eq_some.mp h
  refine Memory.readFrom_eq_some.mpr ⟨by simp, fun j hj => ?_⟩
  rcases Nat.lt_succ_iff_lt_or_eq.mp hj with hj | rfl
  · rw [Memory.read_write_other _ _ (by omega), List.getElem?_append_left hj, hall j hj]
  · simp

section
variable {r : Bool} {d : Fdec}

theorem Fdec.covers_zero (h : d.crc = crc16 r [d.len, d.cmd]) : d.covers r 0 := ⟨[], rfl, h⟩

/-- A payload byte stored and added to the CRC: one byte more is covered. -/
theorem Fdec.covers.write {k : Nat} (b : Byte) (h : d.covers r k) :
    Fdec.covers r { d with payRx := d.payRx.write k b, crc := crcByte r d.crc b } (k + 1) := by
  obtain ⟨payload, hread, hcrc⟩ := h
  have hread' := Memory.readFrom_write_end b hread
  rw [Nat.zero_add] at hread'
  exact ⟨payload ++ [b], hread', by rw [hcrc, ← crc16_concat]; rfl⟩

/-- A `LEN` byte that is not 0 gives `d_n` within the bounds of R13. -/
theorem lenInv_of_len_ne_zero {b : Byte} (hb : b ≠ 0) (hlen : d.len = b) (hn : d.n = b - 1) : d.lenInv := by
  simp only [Fdec.lenInv, maxPayload, hlen, hn]
  constructor <;> bv_omega

/-- In `D_ERR` only the buffer and the cause are held to anything. -/
theorem raiseMalformed_inv {cause : Cause} (hmem : d.payRx.inv) (hcause : cause ≠ .none) :
    (raiseMalformed cause d).inv r :=
  ⟨hmem, ⟨fun h => absurd h hcause, fun h => absurd rfl h⟩, trivial⟩

theorem fdecStart_inv (h : d.inv r) : (fdecStart d).inv r := by
  obtain ⟨hmem, -⟩ := h
  exact ⟨hmem, ⟨nofun, fun _ => rfl⟩, Nat.zero_le _, (crc16_nil r).symm⟩

theorem fdecEnd_inv (h : d.inv r) : (fdecEnd d).inv r := by
  rcases fdecEnd_cases d with ⟨-, e⟩ | ⟨-, -, e⟩ <;> rw [e]
  · exact h
  · obtain ⟨hmem, -⟩ := h
    exact raiseMalformed_inv hmem nofun

/-- DEC.PUSH keeps FDEC's invariant. -/
theorem fdecPush_inv {b : Byte} {d' : Fdec} (h : d.inv r) (hpush : fdecPush r b d = .ok d') : d'.inv r := by
  obtain ⟨hmem, hcause, h'⟩ := id h
  have noCause : d.state ≠ .err → d.cause = .none := hcause.mpr
  rcases fdecPush_cases hpush with ⟨-, -, rfl⟩ | ⟨hst, -, -, rfl⟩ | ⟨hst, -, hi, rfl⟩ | ⟨-, -, rfl⟩ | ⟨hst, hb, rfl⟩ |
    ⟨hst, rfl⟩ | ⟨hst, hlt, hi, rfl⟩ | ⟨hst, hlt, hi, rfl⟩ | ⟨hst, rfl⟩ | ⟨hst, hc, rfl⟩ | ⟨-, -, rfl⟩ | ⟨-, rfl⟩
  · exact raiseMalformed_inv hmem nofun
  · simp only [hst] at h' noCause
    obtain ⟨-, hcrc⟩ := h'
    exact ⟨hmem, iff_of_true (noCause nofun) nofun, hcrc⟩
  · simp only [hst] at h' noCause
    obtain ⟨hle, hcrc⟩ := h'
    have hne : d.idx.toNat ≠ 3 := fun h3 => hi (BitVec.eq_of_toNat_eq h3)
    refine ⟨hmem, iff_of_true (noCause nofun) (by simp [hst]), ?_⟩
    simp only [hst]
    exact ⟨by rw [byte_toNat_succ (by omega)]; omega, hcrc⟩
  · exact raiseMalformed_inv hmem nofun
  · simp only [hst] at h' noCause
    refine ⟨hmem, iff_of_true (noCause nofun) nofun, lenInv_of_len_ne_zero hb rfl rfl, ?_⟩
    rw [h', ← crc16_concat]
    rfl
  · simp only [hst] at h' noCause
    obtain ⟨hlen, hcrc⟩ := h'
    have hcrc' : crcByte r d.crc b = crc16 r [d.len, b] := by rw [hcrc, ← crc16_concat]; rfl
    by_cases hn : d.n = 0
    · simp only [if_pos hn]
      exact ⟨hmem, iff_of_true (noCause nofun) nofun, hlen, by rw [hn]; exact Fdec.covers_zero hcrc'⟩
    · simp only [if_neg hn]
      exact ⟨hmem, iff_of_true (noCause nofun) nofun, hlen,
        Nat.pos_of_ne_zero fun h0 => hn (BitVec.eq_of_toNat_eq h0), Fdec.covers_zero hcrc'⟩
  · simp only [hst] at h' noCause
    obtain ⟨hlen, hlt', hcov⟩ := h'
    refine ⟨Memory.inv_write hmem hlt, iff_of_true (noCause nofun) nofun, hlen, ?_⟩
    rw [← (byte_eq_sub_one_iff hlt').mp hi]
    exact hcov.write b
  · simp only [hst] at h' noCause
    obtain ⟨hlen, hlt', hcov⟩ := h'
    have hmore := mt (byte_eq_sub_one_iff hlt').mpr hi
    have hn := d.n.isLt
    have hidx := byte_toNat_succ (i := d.idx) (by omega)
    refine ⟨Memory.inv_write hmem hlt, iff_of_true (noCause nofun) (by simp [hst]), ?_⟩
    simp only [hst, hidx]
    exact ⟨hlen, by omega, hcov.write b⟩
  · simp only [hst] at h' noCause
    exact ⟨hmem, iff_of_true (noCause nofun) nofun, h'⟩
  · simp only [hst] at h' noCause
    obtain ⟨hlen, hcov⟩ := h'
    exact ⟨hmem, iff_of_true (noCause nofun) nofun, hlen, hcov, by rw [← hc, xor_crcXorOut]⟩
  · exact raiseMalformed_inv hmem nofun
  · exact h

end

end Sys2Proof.Machine
end

section
/-! The invariant along a step: it holds at reset, and every step keeps it (10_state.md R12, R13, R16, R18, R35). -/

namespace Sys2Proof.Machine

/-- A refused start writes only a flag, an accepted one the whole unit (41_frame_encoder.md R111). -/
theorem fencStart_inv {r : Bool} {e : Fenc} (cmd : Byte) (payload : List Byte) (h : e.inv r) :
    (fencStart cmd payload e).1.inv r := by
  rcases fencStart_cases cmd payload e with ⟨-, he⟩ | ⟨-, -, he⟩ | ⟨-, hn, he⟩ <;> rw [he]
  · exact h
  · exact h
  · exact Fenc.started_inv r hn

theorem FencMove.inv {r : Bool} {e e' : Fenc} (hm : FencMove r e e') (h : e.inv r) : e'.inv r := by
  cases hm with
  | stay => exact h
  | start cmd payload => exact fencStart_inv cmd payload h
  | step hstep => exact fencStep_inv h hstep

theorem FdecMove.inv {r : Bool} {starts : Prop} {d d' : Fdec} (hm : FdecMove r starts d d') (h : d.inv r) :
    d'.inv r := by
  cases hm with
  | stay => exact h
  | start _ => exact fdecStart_inv h
  | push hpush => exact fdecPush_inv h hpush
  | finish => exact fdecEnd_inv h

theorem UnitMoves.inv {starts : Prop} {s t : State} (hm : UnitMoves starts s t) (h : Inv s) : Inv t := by
  obtain ⟨henc, hdec⟩ := h
  rw [Inv, hm.reflect_eq]
  exact ⟨hm.enc.inv henc, hm.dec.inv hdec⟩

theorem Memory.inv_nil : Memory.inv [] := ⟨Memory.wf_nil, nofun⟩

theorem Fenc.reset_inv (r : Bool) : Fenc.reset.inv r := ⟨Memory.inv_nil, trivial⟩

theorem Fdec.reset_inv (r : Bool) : Fdec.reset.inv r :=
  ⟨Memory.inv_nil, iff_of_true rfl nofun, Nat.zero_le _, (crc16_nil r).symm⟩

/-- RESET writes both units afresh; every other instruction makes only moves that keep their invariants. -/
theorem exec_inv {i : Instr} {s t : State} (h : Inv s) (hexec : exec i s = .next t) : Inv t := by
  by_cases hi : i = .reset
  · subst hi
    cases hexec
    exact ⟨Fenc.reset_inv _, Fdec.reset_inv _⟩
  · exact (exec_unitMoves hi hexec).inv h

theorem step_inv {s t : State} (h : Inv s) (hstep : step s = .next t) : Inv t := by
  have skip (rest : List Input) : Inv (s.setInputs rest) := h
  obtain ⟨i, rest, hexec⟩ | ⟨rest, hadv⟩ | ⟨b, rest, rfl⟩ | ⟨rest, rfl⟩ := step_next hstep
  · exact exec_inv (skip rest) hexec
  · exact (advance_unitMoves hadv).inv (skip rest)
  · exact h
  · exact h

/-- Settles O49: each unit's own moves keep its invariant, RESET restores it, and the other steps touch no unit. -/
theorem stepKeepsTheInvariant : Obligations.StepKeepsTheInvariant := fun _ _ => step_inv

theorem WholeFrames.nil (r : Bool) : WholeFrames r [] := ⟨[], nofun, rfl⟩

/-- Settles O48: the units' reset values meet their invariants, and the empty `TX` is no frame at all. -/
theorem invariantHoldsAtReset : Obligations.InvariantHoldsAtReset :=
  ⟨⟨Fenc.reset_inv _, Fdec.reset_inv _⟩, fun _ => ⟨[], WholeFrames.nil _, rfl⟩, rfl, rfl⟩

end Sys2Proof.Machine
end

section
/-! Where the machine faults: only an operation of a unit does, and only at a byte buffer (10_state.md R31, 20_memory.md
R47); no state that meets the invariant is such a place. -/

namespace Sys2Proof.Machine

theorem Memory.readFrom_eq_none {m : Memory} {i k : Nat} :
    m.readFrom i k = none ↔ ∃ j, j < k ∧ m.read (i + j) = none := by
  induction k generalizing i with
  | zero => simp [Memory.readFrom]
  | succ k ih =>
    have hsplit : m.readFrom i (k + 1) = none ↔ m.read i = none ∨ m.readFrom (i + 1) k = none := by
      rw [Memory.readFrom]
      cases m.read i <;> cases m.readFrom (i + 1) k <;> simp
    rw [hsplit, ih, Nat.exists_lt_succ_left]
    simp only [Nat.add_zero, Nat.add_right_comm, Nat.add_assoc]

section
variable {r : Bool} {f : Fault}

/-- Below `e_n` FENC reads its buffer; a byte at or above `e_n` holds no value (10_state.md R31). -/
theorem fencPayload_eq_none {e : Fenc} :
    fencPayload e = none ↔ e.n ≤ e.idx ∨ e.payTx.read e.idx.toNat = none := by
  unfold fencPayload
  split
  · next h => simp [BitVec.not_le.mpr h]
  · next h => simp [BitVec.not_lt.mp h]

theorem fencStep_eq_error {e : Fenc} :
    fencStep r e = .error f ↔ f = .payTxNoValue ∧ e.state = .pay ∧ fencPayload e = none := by
  cases hst : e.state with
  | pre => simp only [fencStep, hst]; split <;> simp
  | pay =>
    cases hp : fencPayload e with
    | none => simp [fencStep, hst, hp, eq_comm]
    | some b => simp only [fencStep, hst, hp]; split <;> simp
  | idle | len | cmd | crcHi | crcLo => simp [fencStep, hst]

theorem fdecPush_eq_error {b : Byte} {d : Fdec} :
    fdecPush r b d = .error f ↔ f = .payRxIndex ∧ d.state = .pay ∧ bufferSize ≤ d.idx.toNat := by
  cases hst : d.state with
  | pre =>
    simp only [fdecPush, hst]
    split
    · simp
    · split <;> simp
  | len => simp only [fdecPush, hst]; split <;> simp
  | pay =>
    by_cases hlt : d.idx.toNat < bufferSize
    · simp only [fdecPush, hst, if_pos hlt]
      split <;> simp [hlt]
    · simp [fdecPush, hst, hlt, Nat.le_of_not_lt hlt, eq_comm]
  | crcLo => simp only [fdecPush, hst]; split <;> simp
  | cmd | crcHi | ok | err => simp [fdecPush, hst]

theorem fdecResult_eq_error {d : Fdec} :
    fdecResult d = .error f ↔ f = .payRxNoValue ∧ d.state = .ok ∧ d.payRx.readFrom 0 d.n.toNat = none := by
  unfold fdecResult
  cases d.state with
  | ok => cases d.payRx.readFrom 0 d.n.toNat <;> simp [eq_comm]
  | _ => simp

end

section
variable {s : State} {f : Fault}

theorem encStep_eq_fault : encStep s = .fault f ↔ fencStep s.reflect s.enc = .error f := by
  unfold encStep
  split <;> simp [*]

theorem decPush_eq_fault {b : Byte} : decPush b s = .fault f ↔ fdecPush s.reflect b s.dec = .error f := by
  unfold decPush
  split <;> simp [*]

theorem decResult_eq_fault : decResult s = .fault f ↔ fdecResult s.dec = .error f := by
  unfold decResult
  split <;> simp [*]

/-- Settles O23: each unit's operation passes on its unit's fault, and that has one place. -/
theorem unitsFaultOnlyAtTheBuffers : Obligations.UnitsFaultOnlyAtTheBuffers := by
  refine ⟨fun s => ?_, fun s => ?_, fun b s => ?_⟩
  · show encStep s = _ ↔ _
    simp [encStep_eq_fault, fencStep_eq_error, fencPayload_eq_none]
  · show decResult s = _ ↔ _
    simp [decResult_eq_fault, fdecResult_eq_error, Memory.readFrom_eq_none]
  · show decPush b s = _ ↔ _
    simp [decPush_eq_fault, fdecPush_eq_error, bufferSize, Nat.lt_iff_add_one_le]

end

/-- What an instruction or a step of an exchange passes on when it faults: the fault of one unit's operation. -/
inductive UnitFault (s : State) (f : Fault) : Prop where
  | encStep (h : fencStep s.reflect s.enc = .error f)
  | decPush {b : Byte} (h : fdecPush s.reflect b s.dec = .error f)
  | decResult (h : fdecResult s.dec = .error f)

section
variable {s : State} {f : Fault}

/-- A state that meets the invariant holds every byte its units would read and every index they would write. -/
theorem UnitFault.not_inv (hf : UnitFault s f) : ¬Inv s := by
  rintro ⟨henc, hdec⟩
  cases hf with
  | encStep h =>
    obtain ⟨-, hst, -⟩ := fencStep_eq_error.mp h
    obtain ⟨e, b, last, hok⟩ := fencStep_emits_of_inv henc (by simp [hst])
    simp [hok] at h
  | decPush h =>
    obtain ⟨-, hst, hidx⟩ := fdecPush_eq_error.mp h
    obtain ⟨-, -, hdec⟩ := hdec
    simp only [hst] at hdec
    obtain ⟨⟨hn, -⟩, hlt, -⟩ := hdec
    simp only [maxPayload, bufferSize] at hn hidx
    omega
  | decResult h =>
    obtain ⟨-, hst, hnone⟩ := fdecResult_eq_error.mp h
    obtain ⟨-, -, hdec⟩ := hdec
    simp only [hst] at hdec
    obtain ⟨-, ⟨payload, hsome, -⟩, -⟩ := hdec
    simp [hnone] at hsome

theorem andThen_eq_fault {x : Result} {g : State → Result} :
    Result.andThen x g = .fault f ↔ x = .fault f ∨ ∃ s, x = .next s ∧ g s = .fault f := by
  cases x <;> simp

theorem startExchange_ne_fault (query : Bool) (cmd : Byte) (payload : List Byte) :
    startExchange query cmd payload s ≠ .fault f := by
  rcases startExchange_cases query cmd payload s with ⟨-, e⟩ | ⟨-, e⟩ <;> simp [e]

theorem exec_fault {i : Instr} (h : exec i s = .fault f) : UnitFault s f := by
  cases i with
  | frame _ _ | txctl _ | freq _ | status => exact (startExchange_ne_fault _ _ _ h).elim
  | mode id =>
    simp only [exec, execMode] at h
    split at h
    · exact (startExchange_ne_fault _ _ _ h).elim
    · cases h
  | encStep => exact .encStep (encStep_eq_fault.mp h)
  | decPush b => exact .decPush (decPush_eq_fault.mp h)
  | decResult => exact .decResult (decResult_eq_fault.mp h)
  | reset | crcInit | crcBit _ | crcByte _ | crcRead | encStart _ _ | encStatus | decStart | decEnd => cases h

theorem sendStep_fault {query : Bool} {start : Nat} (h : sendStep query start s = .fault f) : UnitFault s f := by
  obtain h | ⟨t, -, h⟩ := andThen_eq_fault.mp h
  · exact .encStep (encStep_eq_fault.mp h)
  · split at h <;> cases h

theorem readReturns_ne_fault : readReturns s ≠ .fault f := by
  rcases readReturns_cases s with ⟨-, e⟩ | ⟨-, e⟩ <;> simp [e]

theorem pushStep_fault {left : Nat} (h : pushStep left s = .fault f) : UnitFault s f := by
  unfold pushStep at h
  split at h
  · obtain h | ⟨t, -, h⟩ := andThen_eq_fault.mp h
    · exact .decPush (decPush_eq_fault.mp h)
    · cases h
  · cases h

theorem resultStep_fault (h : resultStep s = .fault f) : UnitFault s f := by
  obtain h | ⟨t, -, h⟩ := andThen_eq_fault.mp h
  · exact .decResult (decResult_eq_fault.mp h)
  · split at h <;> cases h

theorem advance_fault (h : advance s = .fault f) : UnitFault s f := by
  unfold advance at h
  split at h
  · cases h
  · exact sendStep_fault h
  · exact absurd h readReturns_ne_fault
  · exact pushStep_fault h
  · exact resultStep_fault h

/-- A requested operation runs, or the exchange it waits for steps; either way the state differs in its inputs alone. -/
theorem requested_drops_inputs (i : Instr) (rest : List Input) (s : State) :
    (∃ j rest', requested i rest s = .run j (s.setInputs rest')) ∨
    ∃ rest', requested i rest s = .exchange (s.setInputs rest') :=
  (requested_cases i rest s).imp (fun e => ⟨i, rest, e⟩) fun ⟨_, _, e⟩ => ⟨s.inputs, e⟩

/-- The four kinds of move; what runs an instruction or a step of the exchange only drops inputs first. -/
theorem nextMove_cases (s : State) :
    (∃ i rest, nextMove s = .run i (s.setInputs rest)) ∨ (∃ rest, nextMove s = .exchange (s.setInputs rest)) ∨
    (∃ t, nextMove s = .quiet t) ∨ ∃ why, nextMove s = .bad why := by
  unfold nextMove
  split
  · exact .inr (.inl ⟨s.inputs, rfl⟩)
  · exact (requested_drops_inputs ..).imp id .inl
  · split
    · exact (requested_drops_inputs ..).imp id .inl
    · exact .inr (.inr (.inr ⟨_, rfl⟩))
  · exact .inr (.inr (.inl ⟨_, rfl⟩))
  · exact .inr (.inr (.inl ⟨_, rfl⟩))
  · next rest _ => exact .inr (.inl ⟨rest, rfl⟩)

/-- If a step faults, the instruction it runs or the step of the exchange it is does. -/
theorem step_fault (h : step s = .fault f) :
    (∃ i rest, exec i (s.setInputs rest) = .fault f) ∨ ∃ rest, advance (s.setInputs rest) = .fault f := by
  rw [step] at h
  obtain ⟨i, rest, e⟩ | ⟨rest, e⟩ | ⟨t, e⟩ | ⟨why, e⟩ := nextMove_cases s <;> rw [e] at h
  · exact .inl ⟨i, rest, h⟩
  · exact .inr ⟨rest, h⟩
  · cases h
  · cases h

theorem step_unitFault (h : step s = .fault f) : UnitFault s f := by
  have skip {rest : List Input} : UnitFault (s.setInputs rest) f → UnitFault s f
    | .encStep h => .encStep h
    | .decPush h => .decPush h
    | .decResult h => .decResult h
  obtain ⟨i, rest, h⟩ | ⟨rest, h⟩ := step_fault h
  · exact skip (exec_fault h)
  · exact skip (advance_fault h)

/-- Settles O50: a step faults only where one of its units does, which the invariant rules out. -/
theorem noStepFaultsUnderTheInvariant : Obligations.NoStepFaultsUnderTheInvariant :=
  fun _ _ hinv h => (step_unitFault h).not_inv hinv

end

end Sys2Proof.Machine
end

section
/-! What the two units keep until a start or RESET: the sticky flags (10_state.md R17), the verdict (R15), and, below an
accepted start, a `PAY_TX` of its payload alone (R31). -/

namespace Sys2Proof.Machine

theorem setFlag_keeps {flags : BitVec 2} {j : Nat} (k : Nat) (h : flags.getLsbD j = true) :
    (setFlag flags k).getLsbD j = true := by
  simp [setFlag, h]

theorem fencStart_keeps_flag {e : Fenc} {j : Nat} (cmd : Byte) (payload : List Byte)
    (h : e.status.getLsbD j = true) : (fencStart cmd payload e).1.status.getLsbD j = true := by
  rcases fencStart_cases cmd payload e with ⟨-, he⟩ | ⟨-, -, he⟩ | ⟨-, -, he⟩ <;> rw [he]
  · exact setFlag_keeps _ h
  · exact setFlag_keeps _ h
  · exact h

/-- No move of FENC clears a bit of `e_status`. -/
theorem FencMove.keeps_flag {r : Bool} {e e' : Fenc} {j : Nat} (hm : FencMove r e e')
    (h : e.status.getLsbD j = true) : e'.status.getLsbD j = true := by
  cases hm with
  | stay => exact h
  | start cmd payload => exact fencStart_keeps_flag cmd payload h
  | step hstep =>
    obtain ⟨-, -, -, hstatus, -⟩ := fencStep_keeps hstep
    rwa [hstatus]

/-- Settles O52: what is no RESET moves FENC by its own operations, and those only set flags. -/
theorem flagsAreClearedOnlyByReset : Obligations.FlagsAreClearedOnlyByReset := by
  rintro s t (⟨i, hi, h⟩ | h)
  · exact ⟨(exec_unitMoves hi h).enc.keeps_flag, (exec_unitMoves hi h).enc.keeps_flag⟩
  · exact ⟨(advance_unitMoves h).enc.keeps_flag, (advance_unitMoves h).enc.keeps_flag⟩

/-- With a verdict only DEC.START moves FDEC (42_frame_decoder.md R132, R133). -/
theorem FdecMove.eq_of_verdict {r : Bool} {starts : Prop} {d d' : Fdec} (hm : FdecMove r starts d d')
    (hd : d.state = .ok ∨ d.state = .err) (hs : ¬starts) : d' = d := by
  cases hm with
  | stay => rfl
  | start h => exact absurd h hs
  | push hpush => rcases hd with hd | hd <;> simpa [fdecPush, hd, eq_comm] using hpush
  | finish => rcases hd with hd | hd <;> simp [fdecEnd, hd]

/-- Settles O53: the two transitions that start FDEC are the ones it leaves out. -/
theorem verdictIsLeftOnlyByStartOrReset : Obligations.VerdictIsLeftOnlyByStartOrReset := by
  rintro s t hd (⟨i, hstart, hreset, h⟩ | ⟨h, hread⟩)
  · exact (exec_unitMoves hreset h).dec.eq_of_verdict hd hstart
  · refine (advance_unitMoves h).dec.eq_of_verdict hd ?_
    rintro ⟨hx, hf⟩
    simp [hread hx] at hf

/-- Settles O12: the payload of an accepted start is written to an empty buffer. -/
theorem payTxHoldsOnlyThePayload : Obligations.PayTxHoldsOnlyThePayload := by
  intro cmd payload s t hidle hn h i hi
  cases h
  rw [State.answer_enc, State.setEnc_enc, fencStart_of_idle hidle hn]
  show (Memory.writeFrom [] 0 payload).read i = none
  rw [Memory.read_writeFrom, if_neg (by omega), Memory.read_nil]

end Sys2Proof.Machine
end

section
/-! Tables of fixed values: the state after power-on (10_state.md R35) and the codes of the status registers (R14, R15,
R18). -/

namespace Sys2Proof.Machine

/-- Settles O1: `State.reset` is R35's table, and a buffer that lists no byte reads as no value. -/
theorem resetLeavesTheTableOfValues : Obligations.ResetLeavesTheTableOfValues :=
  ⟨rfl, rfl, rfl, rfl, rfl, rfl, rfl, rfl, rfl, rfl, rfl, rfl, rfl, rfl, rfl, rfl, Memory.read_nil, Memory.read_nil, rfl⟩

theorem eStateCode_injective : Function.Injective eStateCode :=
  Function.LeftInverse.injective (g := fun c => EState.ofNat c.toNat) fun st => by cases st <;> rfl

theorem dStateCode_injective : Function.Injective dStateCode :=
  Function.LeftInverse.injective (g := fun c => DState.ofNat c.toNat) fun st => by cases st <;> rfl

theorem causeCode_injective : Function.Injective causeCode :=
  Function.LeftInverse.injective (g := fun c => Cause.ofNat c.toNat) fun cause => by cases cause <;> rfl

/-- Settles O59: the codes number the values in the order of their tables, so each can be read back. -/
theorem stateAndCauseCodesAreDistinct : Obligations.StateAndCauseCodesAreDistinct :=
  ⟨⟨rfl, rfl, rfl, rfl, rfl, rfl, rfl⟩, ⟨rfl, rfl, rfl, rfl, rfl, rfl, rfl, rfl⟩, ⟨rfl, rfl, rfl, rfl, rfl⟩,
    eStateCode_injective, dStateCode_injective, causeCode_injective⟩

end Sys2Proof.Machine
end

section
/-! What a frame holds (20_memory.md R46), and what DEC.PUSH takes and no step writes (R45, R55). -/

namespace Sys2Proof.Machine

/-- Settles O17, from the bytes at the offsets of `frameBytes`; `LEN` is `lenByte`, which does not wrap here. -/
theorem frameLayout : Obligations.FrameLayout := by
  refine ⟨fun r cmd payload h => if_neg (Nat.not_le.mpr h), fun r cmd payload h => ⟨if_pos h, frameBytes_length .., ?_, ?_⟩⟩
  · exact fun i hi => frameBytes_getElem?_preamble r cmd payload hi
  · exact ⟨lenByte payload, frameBytes_getElem?_len .., lenByte_toNat h, frameBytes_getElem?_cmd ..,
      fun i hi => frameBytes_getElem?_payload r cmd payload hi, frameBytes_getElem?_crcHi .., frameBytes_getElem?_crcLo ..⟩

/-- Settles O20: whatever DEC.PUSH does to FDEC, it takes the byte. -/
theorem pushTakesOneRxByte : Obligations.PushTakesOneRxByte := by
  intro b s t h
  obtain ⟨d, -, rfl⟩ := decPush_next h
  rfl

theorem exec_cfg {i : Instr} {s t : State} (h : exec i s = .next t) : t.cfg = s.cfg := by
  by_cases hi : i = .reset
  · subst hi; cases h; rfl
  · exact (exec_unitMoves hi h).cfg_eq

/-- Settles O51, by the four things a step can be. -/
theorem configurationNeverChanges : Obligations.ConfigurationNeverChanges := by
  intro s t hstep
  obtain ⟨i, rest, h⟩ | ⟨rest, h⟩ | ⟨b, rest, rfl⟩ | ⟨rest, rfl⟩ := step_next hstep
  · exact (exec_cfg h).trans rfl
  · exact (advance_unitMoves h).cfg_eq.trans rfl
  · rfl
  · rfl

end Sys2Proof.Machine
end

section
/-! FENC and `TX` move together (20_memory.md R50, 41_frame_encoder.md R111, R112): which transitions start a frame, which
emit, and that each keeps `TX` whole frames and the bytes so far of the frame in progress. -/

namespace Sys2Proof.Machine

/-- What one transition may do to FENC and `TX` together: nothing, ENC.START (only when `starts` holds), or ENC.STEP (only
when `steps` holds), which appends exactly the byte it emits. -/
inductive EncMove (starts steps : Prop) (s t : State) : Prop where
  | stay (henc : t.enc = s.enc) (htx : t.tx = s.tx)
  | start (h : starts) (cmd : Byte) (payload : List Byte) (henc : t.enc = (fencStart cmd payload s.enc).1)
      (htx : t.tx = s.tx)
  | step (h : steps) {o : Option (Byte × Bool)} (hstep : fencStep s.reflect s.enc = .ok (t.enc, o))
      (htx : t.tx = s.tx ++ (o.map Prod.fst).toList)

/-- From `s` to `t` FENC and `TX` make one such move, and no frame is abandoned. -/
structure FrameMoves (starts steps : Prop) (s t : State) : Prop where
  partialTx_eq : t.partialTx = s.partialTx
  move : EncMove starts steps s t

section
variable {starts steps : Prop} {s t u : State}

theorem FrameMoves.of_same (hpartial : t.partialTx = s.partialTx) (henc : t.enc = s.enc) (htx : t.tx = s.tx) :
    FrameMoves starts steps s t :=
  ⟨hpartial, .stay henc htx⟩

/-- An update outside FENC, `TX` and the mark may follow a move. -/
theorem FrameMoves.congr_right (h : FrameMoves starts steps s t) (hpartial : u.partialTx = t.partialTx)
    (henc : u.enc = t.enc) (htx : u.tx = t.tx) : FrameMoves starts steps s u := by
  obtain ⟨hp, hmove⟩ := h
  refine ⟨hpartial.trans hp, ?_⟩
  cases hmove with
  | stay he hx => exact .stay (henc.trans he) (htx.trans hx)
  | start h cmd payload he hx => exact .start h cmd payload (henc.trans he) (htx.trans hx)
  | step h hstep hx => exact .step h (henc ▸ hstep) (htx.trans hx)

theorem encStep_frameMoves (hs : steps) (h : encStep s = .next t) : FrameMoves starts steps s t := by
  obtain ⟨e, o, he, ⟨rfl, rfl⟩ | ⟨b, last, rfl, rfl⟩⟩ := encStep_next h
  · exact ⟨rfl, .step hs he (List.append_nil _).symm⟩
  · exact ⟨rfl, .step hs he rfl⟩

theorem decPush_frameMoves {b : Byte} (h : decPush b s = .next t) : FrameMoves starts steps s t := by
  obtain ⟨d, -, rfl⟩ := decPush_next h
  exact .of_same rfl rfl rfl

theorem startExchange_frameMoves {query : Bool} {cmd : Byte} {payload : List Byte} (hs : starts)
    (h : startExchange query cmd payload s = .next t) : FrameMoves starts steps s t := by
  obtain ⟨-, e⟩ | ⟨-, e⟩ := startExchange_cases query cmd payload s <;> rw [e] at h <;> cases h <;>
    exact ⟨rfl, .start hs cmd payload rfl rfl⟩

/-- Of the instructions but RESET only ENC.START and the command operations start a frame, and only ENC.STEP steps one. -/
theorem exec_frameMoves {i : Instr} (hi : i ≠ .reset) (h : exec i s = .next t) :
    FrameMoves ((∃ c p, i = .encStart c p) ∨ commandOf i ≠ none) (i = .encStep) s t := by
  cases i with
  | frame cmd payload => exact startExchange_frameMoves (.inr nofun) h
  | txctl on => exact startExchange_frameMoves (.inr nofun) h
  | freq hz => exact startExchange_frameMoves (.inr nofun) h
  | status => exact startExchange_frameMoves (.inr nofun) h
  | mode id =>
    simp only [exec, execMode] at h
    split at h
    · exact startExchange_frameMoves (.inr nofun) h
    · cases h
  | reset => exact absurd rfl hi
  | encStart cmd payload => cases h; exact ⟨rfl, .start (.inl ⟨cmd, payload, rfl⟩) cmd payload rfl rfl⟩
  | encStep => exact encStep_frameMoves rfl h
  | decPush b => exact decPush_frameMoves h
  | decResult => obtain ⟨-, rfl⟩ | ⟨v, -, rfl⟩ := decResult_next h <;> exact .of_same rfl rfl rfl
  | crcInit | crcBit _ | crcByte _ | crcRead | encStatus | decStart | decEnd => cases h; exact .of_same rfl rfl rfl

/-- No step of an exchange starts a frame, and only one of a sending exchange steps FENC. -/
theorem advance_frameMoves (h : advance s = .next t) :
    FrameMoves False (∃ query start, s.exchange = .sending query start) s t := by
  obtain ⟨-, rfl⟩ | ⟨query, start, hx, h⟩ | ⟨-, h⟩ | ⟨left, -, h⟩ | ⟨-, h⟩ := advance_next h
  · exact .of_same rfl rfl rfl
  · obtain ⟨u, hu, ⟨-, rfl⟩ | ⟨-, rfl⟩⟩ := sendStep_next h
    · cases query <;> exact (encStep_frameMoves ⟨_, _, hx⟩ hu).congr_right rfl rfl rfl
    · exact encStep_frameMoves ⟨_, _, hx⟩ hu
  · obtain ⟨-, e⟩ | ⟨-, e⟩ := readReturns_cases s <;> rw [e] at h <;> cases h <;> exact .of_same rfl rfl rfl
  · obtain ⟨k, b, rest, u, -, -, hu, rfl⟩ | ⟨-, rfl⟩ := pushStep_next h
    · exact (decPush_frameMoves hu).congr_right rfl rfl rfl
    · exact .of_same rfl rfl rfl
  · obtain ⟨-, rfl⟩ | ⟨d, -, rfl⟩ := resultStep_next h <;> exact .of_same rfl rfl rfl

/-- A move emits at most one byte, and only where FENC steps. -/
theorem EncMove.tx_grows (h : EncMove starts steps s t) : t.tx = s.tx ∨ (steps ∧ ∃ b : Byte, t.tx = s.tx ++ [b]) := by
  cases h with
  | stay _ htx => exact .inl htx
  | start _ _ _ _ htx => exact .inl htx
  | @step h o _ htx =>
    cases o with
    | none => exact .inl (htx.trans (List.append_nil _))
    | some x => exact .inr ⟨h, x.1, htx⟩

end

/-- Settles O54: `TX` is FENC's move, and RESET does not touch it. -/
theorem txOnlyGrows : Obligations.TxOnlyGrows := by
  refine fun s t => ⟨fun i h => ?_, fun h => (advance_frameMoves h).move.tx_grows⟩
  by_cases hi : i = .reset
  · subst hi; cases h; exact .inl rfl
  · exact (exec_frameMoves hi h).move.tx_grows

/-- `tx` is whole frames and then what FENC, in the state `e`, has emitted of its frame: `TxInv` with no frame abandoned. -/
def TxCovers (r : Bool) (e : Fenc) (tx : List Byte) : Prop :=
  ∃ whole, WholeFrames r whole ∧ tx = whole ++ (frameBytes r e.cmd e.payload).take e.progress

theorem txInv_iff {s : State} : TxInv s ↔ (s.partialTx = false → TxCovers s.reflect s.enc s.tx) := Iff.rfl

theorem WholeFrames.append_frame {r : Bool} {whole : List Byte} (h : WholeFrames r whole) (cmd : Byte)
    {payload : List Byte} (hn : payload.length ≤ maxPayload) : WholeFrames r (whole ++ frameBytes r cmd payload) := by
  obtain ⟨frames, hall, rfl⟩ := h
  refine ⟨frames ++ [(cmd, payload)], fun f hf => ?_, by simp⟩
  rcases List.mem_append.mp hf with hf | hf
  · exact hall f hf
  · rwa [List.mem_singleton.mp hf]

theorem Fenc.progress_of_idle {e : Fenc} (hs : e.state = .idle) : e.progress = 0 := by simp [Fenc.progress, hs]

section
variable {r : Bool} {e e' : Fenc} {tx : List Byte}

/-- With no byte of a frame out, `tx` is whole frames alone, whatever FENC's operands. -/
theorem txCovers_iff_of_progress_zero (h : e.progress = 0) : TxCovers r e tx ↔ WholeFrames r tx := by
  simp [TxCovers, h]

/-- A refused start changes the flags alone; an accepted one finds FENC idle and begins a frame of which nothing is out. -/
theorem TxCovers.fencStart (h : TxCovers r e tx) (cmd : Byte) (payload : List Byte) :
    TxCovers r (fencStart cmd payload e).1 tx := by
  rcases fencStart_cases cmd payload e with ⟨-, he⟩ | ⟨-, -, he⟩ | ⟨hidle, -, he⟩ <;> rw [he]
  · exact h
  · exact h
  · exact (txCovers_iff_of_progress_zero rfl).mpr
      ((txCovers_iff_of_progress_zero (Fenc.progress_of_idle hidle)).mp h)

/-- ENC.STEP appends the next byte of the frame in progress, and the last one makes it a whole frame. -/
theorem TxCovers.fencStep {o : Option (Byte × Bool)} (h : TxCovers r e tx) (hinv : e.inv r)
    (hstep : fencStep r e = .ok (e', o)) : TxCovers r e' (tx ++ (o.map Prod.fst).toList) := by
  by_cases hs : e.state = .idle
  · obtain ⟨rfl, rfl⟩ : e = e' ∧ none = o := by simpa [Machine.fencStep, hs] using hstep
    simpa using h
  · obtain ⟨e'', b, last, hsome⟩ := fencStep_emits_of_inv hinv hs
    obtain ⟨rfl, rfl⟩ : e'' = e' ∧ some (b, last) = o := by simpa [hsome] using hstep
    have hbyte := fencStep_byte hinv hstep
    have hpayload := (hinv.frameInv hs).payload_length
    obtain ⟨hn, -, -⟩ := hinv.frameInv hs
    obtain ⟨whole, hwhole, rfl⟩ := h
    have hnext : whole ++ (frameBytes r e.cmd e.payload).take e.progress ++ [b] =
        whole ++ (frameBytes r e.cmd e.payload).take (e.progress + 1) := by
      rw [List.append_assoc, List.take_add_one, hbyte, Option.toList_some]
    show TxCovers r e'' (_ ++ [b])
    rw [hnext]
    rcases fencStep_progress hinv hstep with ⟨hlast, -, hidle⟩ | ⟨-, -, -, hprog⟩
    · rw [txCovers_iff_of_progress_zero (Fenc.progress_of_idle hidle),
        List.take_of_length_le (by rw [frameBytes_length]; omega)]
      exact hwhole.append_frame _ (by omega)
    · obtain ⟨hcmd, -, -, -, hpay⟩ := fencStep_keeps hstep
      exact ⟨whole, hwhole, by rw [hcmd, hprog, Fenc.payload, Fenc.payload, hpay]⟩

end

section
variable {s t : State}

/-- Every move of FENC and `TX` keeps the invariant of `TX`. -/
theorem FrameMoves.txInv {starts steps : Prop} (hm : FrameMoves starts steps s t) (hr : t.reflect = s.reflect)
    (hinv : Inv s) (h : TxInv s) : TxInv t := by
  rw [txInv_iff] at h ⊢
  rw [hm.partialTx_eq, hr]
  intro hpartial
  cases hm.move with
  | stay henc htx => rw [henc, htx]; exact h hpartial
  | start _ cmd payload henc htx => rw [henc, htx]; exact (h hpartial).fencStart cmd payload
  | step _ hstep htx => rw [htx]; exact (h hpartial).fencStep hinv.1 hstep

/-- RESET leaves `TX` alone: it is still whole frames, or part of a frame was out and the mark says so. -/
theorem execReset_txInv (h : TxInv s) (hexec : execReset s = .next t) : TxInv t := by
  cases hexec
  rw [txInv_iff] at h ⊢
  intro hpartial
  obtain ⟨hkept, hmid⟩ : s.partialTx = false ∧ midFrame s.enc = false := Bool.or_eq_false_iff.mp hpartial
  have hzero : s.enc.progress = 0 := by simpa [midFrame] using hmid
  exact (txCovers_iff_of_progress_zero rfl).mpr ((txCovers_iff_of_progress_zero hzero).mp (h hkept))

theorem exec_txInv {i : Instr} (hinv : Inv s) (h : TxInv s) (hexec : exec i s = .next t) : TxInv t := by
  by_cases hi : i = .reset
  · subst hi; exact execReset_txInv h hexec
  · exact (exec_frameMoves hi hexec).txInv (exec_unitMoves hi hexec).reflect_eq hinv h

end

/-- Settles O55, by the four things a step can be; a byte of the device and a failing read leave FENC and `TX` alone. -/
theorem stepKeepsTheTxInvariant : Obligations.StepKeepsTheTxInvariant := by
  intro s t hinv h hstep
  have skip (rest : List Input) : Inv (s.setInputs rest) ∧ TxInv (s.setInputs rest) := ⟨hinv, h⟩
  obtain ⟨i, rest, hexec⟩ | ⟨rest, hadv⟩ | ⟨b, rest, rfl⟩ | ⟨rest, rfl⟩ := step_next hstep
  · exact exec_txInv (skip rest).1 (skip rest).2 hexec
  · exact (advance_frameMoves hadv).txInv (advance_unitMoves hadv).reflect_eq (skip rest).1 (skip rest).2
  · exact h
  · exact h

end Sys2Proof.Machine
end

section
/-! What belongs to which unit (20_memory.md R40, R53): an instruction writes the registers and the buffer of its own unit
alone, and an operation of a unit depends on nothing outside it. -/

namespace Sys2Proof.Machine

/-- FDEC and CRCG differ between `s` and `t` only if `i` is an operation of theirs. -/
structure WritesOwnUnit (i : Instr) (s t : State) : Prop where
  dec_eq : isDecOp i = false → t.dec = s.dec
  crc_eq : isCrcOp i = false → t.crc = s.crc

section
variable {s t : State}

theorem startExchange_keeps {query : Bool} {cmd : Byte} {payload : List Byte}
    (h : startExchange query cmd payload s = .next t) : t.dec = s.dec ∧ t.crc = s.crc := by
  obtain ⟨-, e⟩ | ⟨-, e⟩ := startExchange_cases query cmd payload s <;> rw [e] at h <;> cases h <;> exact ⟨rfl, rfl⟩

theorem encStep_keeps (h : encStep s = .next t) : t.dec = s.dec ∧ t.crc = s.crc := by
  obtain ⟨e, o, -, ⟨-, rfl⟩ | ⟨b, last, -, rfl⟩⟩ := encStep_next h <;> exact ⟨rfl, rfl⟩

theorem WritesOwnUnit.of_keeps {i : Instr} (h : t.dec = s.dec ∧ t.crc = s.crc) : WritesOwnUnit i s t :=
  ⟨fun _ => h.1, fun _ => h.2⟩

theorem exec_writesOwnUnit {i : Instr} (hi : i ≠ .reset) (h : exec i s = .next t) : WritesOwnUnit i s t := by
  cases i with
  | frame cmd payload => exact .of_keeps (startExchange_keeps h)
  | txctl on => exact .of_keeps (startExchange_keeps h)
  | freq hz => exact .of_keeps (startExchange_keeps h)
  | status => exact .of_keeps (startExchange_keeps h)
  | mode id =>
    simp only [exec, execMode] at h
    split at h
    · exact .of_keeps (startExchange_keeps h)
    · cases h
  | reset => exact absurd rfl hi
  | encStep => exact .of_keeps (encStep_keeps h)
  | encStart _ _ | encStatus => cases h; exact .of_keeps ⟨rfl, rfl⟩
  | decPush b => obtain ⟨d, -, rfl⟩ := decPush_next h; exact ⟨nofun, fun _ => rfl⟩
  | decResult => obtain ⟨-, rfl⟩ | ⟨v, -, rfl⟩ := decResult_next h <;> exact .of_keeps ⟨rfl, rfl⟩
  | decStart | decEnd => cases h; exact ⟨nofun, fun _ => rfl⟩
  | crcInit | crcBit _ | crcByte _ | crcRead => cases h; exact ⟨fun _ => rfl, nofun⟩

/-- `PAY_TX` is written by a start alone. -/
theorem EncMove.payTx_eq {starts steps : Prop} (h : EncMove starts steps s t) (hs : ¬starts) :
    t.enc.payTx = s.enc.payTx := by
  cases h with
  | stay henc _ => rw [henc]
  | start h _ _ _ _ => exact absurd h hs
  | step _ hstep _ =>
    obtain ⟨-, -, -, -, hpay⟩ := fencStep_keeps hstep
    exact hpay

theorem fdecEnd_payRx (d : Fdec) : (fdecEnd d).payRx = d.payRx := by
  rcases fdecEnd_cases d with ⟨-, e⟩ | ⟨-, -, e⟩ <;> rw [e]
  rfl

theorem exec_payRx {i : Instr} (hi : i ≠ .reset) (hpush : ∀ b, i ≠ .decPush b) (h : exec i s = .next t) :
    t.dec.payRx = s.dec.payRx := by
  cases hd : isDecOp i with
  | false => rw [(exec_writesOwnUnit hi h).dec_eq hd]
  | true =>
    cases i with
    | decStart => cases h; rfl
    | decPush b => exact absurd rfl (hpush b)
    | decEnd => cases h; exact fdecEnd_payRx s.dec
    | decResult => obtain ⟨-, rfl⟩ | ⟨v, -, rfl⟩ := decResult_next h <;> rfl
    | _ => cases hd

/-- Outside the pushes of a reply an exchange at most starts FDEC, which keeps its buffer (42_frame_decoder.md R131). -/
theorem advance_payRx (hpush : ∀ k, s.exchange ≠ .pushing k) (h : advance s = .next t) :
    t.dec.payRx = s.dec.payRx := by
  obtain ⟨-, rfl⟩ | ⟨query, start, -, h⟩ | ⟨-, h⟩ | ⟨left, hx, -⟩ | ⟨-, h⟩ := advance_next h
  · rfl
  · obtain ⟨u, hu, ⟨-, rfl⟩ | ⟨-, rfl⟩⟩ := sendStep_next h
    · cases query <;> exact congrArg Fdec.payRx (encStep_keeps hu).1
    · exact congrArg Fdec.payRx (encStep_keeps hu).1
  · obtain ⟨-, e⟩ | ⟨-, e⟩ := readReturns_cases s <;> rw [e] at h <;> cases h <;> rfl
  · exact absurd hx (hpush left)
  · obtain ⟨-, rfl⟩ | ⟨d, -, rfl⟩ := resultStep_next h <;> rfl

end

/-- Settles O57: `PAY_TX` by FENC's moves, `PAY_RX` by what is no push. -/
theorem buffersHaveOneWriter : Obligations.BuffersHaveOneWriter := by
  refine fun s t => ⟨fun i h hi => ⟨fun hstart hc => ?_, fun hpush => exec_payRx hi hpush h⟩, fun h => ⟨?_, fun hpush => ?_⟩⟩
  · refine (exec_frameMoves hi h).move.payTx_eq ?_
    rintro (⟨c, p, hcp⟩ | hne)
    · exact hstart c p hcp
    · exact hne hc
  · exact (advance_frameMoves h).move.payTx_eq id
  · exact advance_payRx hpush h

/-- An operation of one of the three units (30_encoding.md R75). -/
def IsUnitOp (i : Instr) : Prop := isEncOp i = true ∨ isDecOp i = true ∨ isCrcOp i = true

/-- The operations `own` of one unit see and write only the part `view` of the state and their answer: each can be done
again wherever that part is the same, and every other unit operation leaves the part as it is. -/
structure ActsAlone {α : Type} (own : Instr → Bool) (view : State → α) : Prop where
  replay : ∀ {i : Instr} {s t u : State}, own i = true → exec i s = .next t → view u = view s →
    ∃ v, exec i u = .next v ∧ view v = view t ∧ v.ret = t.ret
  skip : ∀ {i : Instr} {s t : State}, own i = false → IsUnitOp i → exec i s = .next t → view t = view s

/-- By induction on the run from its end, where the last operation's answer is. -/
theorem ActsAlone.runOps_filter {α : Type} {own : Instr → Bool} {view : State → α} (ha : ActsAlone own view)
    {is : List Instr} {s t : State} (his : ∀ i ∈ is, IsUnitOp i) (hrun : runOps is s = .next t) :
    ∃ v, runOps (is.filter own) s = .next v ∧ view v = view t ∧
      ∀ i, is.getLast? = some i → own i = true → v.ret = t.ret := by
  induction is using List.reverseRecOn generalizing t with
  | nil => cases hrun; exact ⟨s, rfl, rfl, fun _ _ _ => rfl⟩
  | append_singleton is i ih =>
    rw [runOps_append] at hrun
    obtain ⟨t₁, hinit, hlast⟩ := andThen_eq_next.mp hrun
    have hexec : exec i t₁ = .next t := by
      obtain ⟨t₂, h, ht₂⟩ := andThen_eq_next.mp hlast
      cases ht₂
      exact h
    obtain ⟨u, hu, hview, -⟩ := ih (fun j hj => his j (List.mem_append_left _ hj)) hinit
    rw [List.filter_append, runOps_append, hu, andThen_next, List.getLast?_concat]
    cases hown : own i with
    | true =>
      obtain ⟨v, hv, hvt, hret⟩ := ha.replay hown hexec hview
      exact ⟨v, by simp [hown, hv], hvt, fun _ _ _ => hret⟩
    | false =>
      refine ⟨u, by simp [hown], hview.trans (ha.skip hown (his i (by simp)) hexec).symm, ?_⟩
      rintro j ⟨⟩ hj
      simp [hown] at hj

/-- What FENC's operations see and write. -/
def encView (s : State) : Config × Fenc × List Byte := (s.cfg, s.enc, s.tx)

/-- What FDEC's operations see and write. -/
def decView (s : State) : Config × Fdec := (s.cfg, s.dec)

/-- What CRCG's operations see and write. -/
def crcView (s : State) : Config × Word := (s.cfg, s.crc)

theorem IsUnitOp.ne_reset {i : Instr} (h : IsUnitOp i) : i ≠ .reset := by
  rintro rfl
  simp [IsUnitOp, isEncOp, isDecOp, isCrcOp] at h

theorem encOps_actAlone : ActsAlone isEncOp encView where
  replay {i s t u} hi h hview := by
    obtain ⟨hcfg, henc, htx⟩ : u.cfg = s.cfg ∧ u.enc = s.enc ∧ u.tx = s.tx := by simpa [encView] using hview
    cases i with
    | encStart cmd payload => cases h; exact ⟨_, rfl, by simp [encView, hcfg, henc, htx], by simp [henc]⟩
    | encStatus => cases h; exact ⟨_, rfl, by simp [encView, hcfg, henc, htx], by simp [henc]⟩
    | encStep =>
      have hr : u.reflect = s.reflect := congrArg Config.crcReflect hcfg
      obtain ⟨e, o, he, ⟨rfl, rfl⟩ | ⟨b, last, rfl, rfl⟩⟩ := encStep_next h
      · exact ⟨(u.setEnc e).answer .idle, by simp [exec, execEncStep, encStep, hr, henc, he],
          by simp [encView, hcfg, htx], rfl⟩
      · exact ⟨((u.setEnc e).emit b).answer (.byte b last), by simp [exec, execEncStep, encStep, hr, henc, he],
          by simp [encView, hcfg, htx], rfl⟩
    | _ => cases hi
  skip {i s t} hi hop h := by
    obtain ⟨⟨henc, htx, hcfg, -⟩, -⟩ := exec_sameFrame ((hop.resolve_left (by simp [hi])).imp_right .inl) h
    rw [encView, henc, htx, hcfg, encView]

theorem decOps_actAlone : ActsAlone isDecOp decView where
  replay {i s t u} hi h hview := by
    obtain ⟨hcfg, hdec⟩ : u.cfg = s.cfg ∧ u.dec = s.dec := by simpa [decView] using hview
    cases i with
    | decStart => cases h; exact ⟨_, rfl, by simp [decView, hcfg, hdec], rfl⟩
    | decEnd => cases h; exact ⟨_, rfl, by simp [decView, hcfg, hdec], rfl⟩
    | decPush b =>
      have hr : u.reflect = s.reflect := congrArg Config.crcReflect hcfg
      obtain ⟨d, hd, rfl⟩ := decPush_next h
      exact ⟨((u.setDec d).takeRx).answer .nothing, by simp [exec, execDecPush, decPush, hr, hdec, hd],
        by simp [decView, hcfg], rfl⟩
    | decResult =>
      obtain ⟨hd, rfl⟩ | ⟨v, hd, rfl⟩ := decResult_next h
      · exact ⟨u.answer .pending, by simp [exec, execDecResult, decResult, hdec, hd], hview, rfl⟩
      · exact ⟨u.answer (.decoded v), by simp [exec, execDecResult, decResult, hdec, hd], hview, rfl⟩
    | _ => cases hi
  skip {i s t} hi hop h := by
    rw [decView, exec_cfg h, (exec_writesOwnUnit hop.ne_reset h).dec_eq hi, decView]

theorem crcOps_actAlone : ActsAlone isCrcOp crcView where
  replay {i s t u} hi h hview := by
    obtain ⟨hcfg, hcrc⟩ : u.cfg = s.cfg ∧ u.crc = s.crc := by simpa [crcView] using hview
    have hr : u.reflect = s.reflect := congrArg Config.crcReflect hcfg
    cases i with
    | crcInit | crcBit _ | crcByte _ | crcRead =>
      cases h; exact ⟨_, rfl, by simp [crcView, hcfg, hcrc, hr], by simp [hcrc]⟩
    | _ => cases hi
  skip {i s t} hi hop h := by
    rw [crcView, exec_cfg h, (exec_writesOwnUnit hop.ne_reset h).crc_eq hi, crcView]

/-- Settles O58: each unit acts alone on its own part of the state, so the other units' operations can be left out. -/
theorem unitsAreIndependent : Obligations.UnitsAreIndependent := by
  intro is s t his hrun
  refine ⟨?_, ?_, ?_⟩
  · obtain ⟨u, hu, hview, hret⟩ := encOps_actAlone.runOps_filter his hrun
    obtain ⟨-, henc, htx⟩ : u.cfg = t.cfg ∧ u.enc = t.enc ∧ u.tx = t.tx := by simpa [encView] using hview
    exact ⟨u, hu, henc, htx, hret⟩
  · obtain ⟨u, hu, hview, hret⟩ := decOps_actAlone.runOps_filter his hrun
    exact ⟨u, hu, congrArg Prod.snd hview, hret⟩
  · obtain ⟨u, hu, hview, hret⟩ := crcOps_actAlone.runOps_filter his hrun
    exact ⟨u, hu, congrArg Prod.snd hview, hret⟩

end Sys2Proof.Machine
end

section
/-! Bytes and the numbers they are cut from, high byte first (20_memory.md R41, R42). -/

namespace Sys2Proof.Machine

/-- The two checksum bytes read back as the checksum. -/
@[simp] theorem wordOf_hi8_lo8 (v : Word) : wordOf (hi8 v) (lo8 v) = v :=
  BitVec.extractLsb'_append_extractLsb' (w := 8) (len := 8)

/-- A byte above the lowest one is a byte of the number without its lowest byte. -/
theorem extractLsb'_append_byte {n : Nat} (x : BitVec n) (y : Byte) (k : Nat) :
    (x ++ y).extractLsb' (k + 8) 8 = x.extractLsb' k 8 := by
  simp [BitVec.extractLsb'_append_eq_of_le]

/-- The four bytes of a number put together from four bytes. -/
theorem be32_append (a b c d : Byte) : be32 (a ++ b ++ c ++ d) = [a, b, c, d] := by
  have ha : (a ++ b ++ c ++ d).extractLsb' 24 8 = a :=
    (extractLsb'_append_byte (a ++ b ++ c) d 16).trans
      ((extractLsb'_append_byte (a ++ b) c 8).trans BitVec.extractLsb'_append_eq_left)
  have hb : (a ++ b ++ c ++ d).extractLsb' 16 8 = b :=
    (extractLsb'_append_byte (a ++ b ++ c) d 8).trans
      ((extractLsb'_append_byte (a ++ b) c 0).trans BitVec.extractLsb'_append_eq_right)
  have hc : (a ++ b ++ c ++ d).extractLsb' 8 8 = c :=
    (extractLsb'_append_byte (a ++ b ++ c) d 0).trans BitVec.extractLsb'_append_eq_right
  have hd : (a ++ b ++ c ++ d).extractLsb' 0 8 = d := BitVec.extractLsb'_append_eq_right
  rw [be32, ha, hb, hc, hd]

/-- A number put together again from its four bytes. -/
theorem append_be32 (hz : Hz) :
    (hz.extractLsb' 24 8 ++ hz.extractLsb' 16 8 ++ hz.extractLsb' 8 8 ++ hz.extractLsb' 0 8 : Hz) = hz := by
  have join (start len : Nat) :
      hz.extractLsb' (start + 8) len ++ hz.extractLsb' start 8 = hz.extractLsb' start (len + 8) :=
    BitVec.extractLsb'_append_extractLsb'_eq_extractLsb' rfl
  calc (hz.extractLsb' 24 8 ++ hz.extractLsb' 16 8 ++ hz.extractLsb' 8 8 ++ hz.extractLsb' 0 8 : Hz)
    _ = (hz.extractLsb' 16 16 ++ hz.extractLsb' 8 8 ++ hz.extractLsb' 0 8 : Hz) :=
      congrArg (fun v : BitVec 16 => (v ++ hz.extractLsb' 8 8 ++ hz.extractLsb' 0 8 : Hz)) (join 16 8)
    _ = (hz.extractLsb' 8 24 ++ hz.extractLsb' 0 8 : Hz) :=
      congrArg (fun v : BitVec 24 => (v ++ hz.extractLsb' 0 8 : Hz)) (join 8 16)
    _ = hz := BitVec.extractLsb'_append_extractLsb'

theorem lenByte_ne_zero {payload : List Byte} (h : payload.length ≤ maxPayload) : lenByte payload ≠ 0 := by
  intro h0
  have hlen := lenByte_toNat h
  rw [h0] at hlen
  exact absurd hlen (by simp)

end Sys2Proof.Machine
end

section
/-! The row of a command and payload (30_encoding.md R65 to R68, R81): it keeps both, and it is the instruction itself for
every command row. -/

namespace Sys2Proof

open Sys2Proof.Machine

/-- The row the decoder names keeps the command byte and the payload: a command row is named only where its own operands
give them back. -/
theorem commandOf_classify (cmd : Byte) (payload : List Byte) :
    commandOf (classify cmd payload) = some (cmd, payload) := by
  unfold classify
  split_ifs with htx hfreq hmode hstatus
  · subst htx
    split
    · split_ifs with hon hoff
      · subst hon; rfl
      · subst hoff; rfl
      · rfl
    · rfl
  · subst hfreq
    split
    · split_ifs with heq
      · obtain ⟨rfl, rfl, rfl, rfl⟩ := heq
        rw [commandOf, freqPayload, be32_append]; rfl
      · rfl
    · rfl
  · subst hmode
    split
    · split_ifs with heq
      · obtain ⟨rfl, -⟩ := heq; rfl
      · rfl
    · rfl
  · subst hstatus
    split <;> rfl
  · rfl

/-- Settles O43, by the row of each command. -/
theorem rowKeepsCommandAndPayload : Obligations.RowKeepsCommandAndPayload := commandOf_classify

theorem Instr.specific_of_command {i : Instr} {cmd : Byte} {payload : List Byte} (hc : commandOf i = some (cmd, payload)) :
    i.specific = classify cmd payload := by
  simp only [Instr.specific, hc]

@[simp] theorem Instr.specific_txctl (on : Bool) : (Instr.txctl on).specific = .txctl on := by cases on <;> rfl

@[simp] theorem Instr.specific_freq (hz : Hz) : (Instr.freq hz).specific = .freq hz := by
  have h : (Instr.freq hz).specific =
      .freq (hz.extractLsb' 24 8 ++ hz.extractLsb' 16 8 ++ hz.extractLsb' 8 8 ++ hz.extractLsb' 0 8) := by
    simp [Instr.specific, commandOf, freqPayload, be32, classify, opFreq, opTx]
  rw [h, append_be32]

theorem Instr.specific_mode {id : Byte} (h : id ≤ maxModeId) : (Instr.mode id).specific = .mode id := by
  simp [Instr.specific, commandOf, modePayload, classify, opFreq, opTx, opMode, h]

/-- Only a well-formed FRAME can have a row other than itself. -/
theorem Instr.specific_of_ne_frame {i : Instr} (hwf : i.wellFormed = true) (h : ∀ c p, i ≠ .frame c p) : i.specific = i := by
  cases i with
  | frame cmd payload => exact absurd rfl (h cmd payload)
  | txctl on => exact Instr.specific_txctl on
  | freq hz => exact Instr.specific_freq hz
  | mode id => exact Instr.specific_mode (of_decide_eq_true hwf)
  | _ => rfl

theorem classify_of_unlisted {cmd : Byte} {payload : List Byte} (htx : cmd ≠ opTx) (hfreq : cmd ≠ opFreq)
    (hmode : cmd ≠ opMode) (hstatus : cmd ≠ opStatus) : classify cmd payload = .frame cmd payload := by
  simp only [classify, if_neg htx, if_neg hfreq, if_neg hmode, if_neg hstatus]

/-- What has bytes is a command with a payload that has a frame, and the bytes are that frame. -/
theorem encodeInstr_eq_some {r : Bool} {i : Instr} {bs : List Byte} (h : encodeInstr r i = some bs) :
    ∃ cmd payload, commandOf i = some (cmd, payload) ∧ payload.length ≤ maxPayload ∧ bs = frameBytes r cmd payload := by
  cases hc : commandOf i with
  | none => simp [encodeInstr, hc] at h
  | some c => exact ⟨c.1, c.2, rfl, Laws.encodeInstr_eq hc h⟩

/-- Naming its row leaves an instruction's bytes as they are. -/
theorem encodeInstr_specific (r : Bool) (i : Instr) : encodeInstr r i.specific = encodeInstr r i := by
  cases hc : commandOf i with
  | none => simp [Instr.specific, hc]
  | some c => rw [Instr.specific_of_command hc, encodeInstr, encodeInstr, commandOf_classify, hc]

end Sys2Proof
end

section
/-! The two decoders on the bytes of a frame, and the listing decoder on every list of bytes (30_encoding.md R60, R67,
42_frame_decoder.md R130). -/

namespace Sys2Proof.Machine

/-- Decode of encode is the identity, whatever follows the frame (42_frame_decoder.md R137, R150). -/
theorem decodeFrame_frameBytes_append (r : Bool) (cmd : Byte) {payload : List Byte} (t : List Byte)
    (h : payload.length ≤ maxPayload) : decodeFrame r (frameBytes r cmd payload ++ t) = .ok cmd payload := by
  have hne : lenByte payload ≠ 0#8 := lenByte_ne_zero h
  rw [frameBytes_eq_cons]
  simp [decodeFrame, lenByte_toNat h, hne, body]

end Sys2Proof.Machine

namespace Sys2Proof

open Sys2Proof.Machine

/-- The last two bytes of a frame are its checksum. -/
theorem frameBytes_drop_length_sub_two (r : Bool) (cmd : Byte) (payload : List Byte) :
    (frameBytes r cmd payload).drop ((frameBytes r cmd payload).length - 2) = be16 (crc16 r (body cmd payload)) := by
  rw [frameBytes, List.length_append, show (be16 (crc16 r (body cmd payload))).length = 2 from rfl, Nat.add_sub_cancel,
    List.drop_left]

/-- Settles O41: both decoders read the command and payload back, and their row is the instruction's own. -/
theorem decodeOfEncodedInstruction : Obligations.DecodeOfEncodedInstruction := by
  intro r i bs hwf henc
  obtain ⟨cmd, payload, hc, hn, rfl⟩ := encodeInstr_eq_some henc
  have hspec := Instr.specific_of_command hc
  refine ⟨?_, (encodeInstr_specific r i).trans henc, fun t => ?_, Instr.specific_of_ne_frame hwf, ?_⟩
  · have hdec := decodeFrame_frameBytes_append r cmd [] hn
    rw [List.append_nil] at hdec
    rw [decodeWire, hdec, hspec]
  · rw [frameBytes_drop_length_sub_two, hspec, frameBytes, List.append_assoc]
    exact Laws.decodeListing_frame cmd payload _ hn
  · rintro c p rfl htx hfreq hmode hstatus
    exact classify_of_unlisted htx hfreq hmode hstatus

section
variable {bs rest : List Byte} {len : Byte}

theorem decodeListing_of_bad_preamble (h : ∃ b ∈ bs.take 4, b ≠ preambleByte) :
    decodeListing bs = .error .preamble := by
  have hbad : (bs.take 4).any (fun b => b != preambleByte) = true := by simpa using h
  rw [decodeListing, if_pos hbad]

/-- Past four good bytes the listing decoder looks at `LEN` and what follows it alone. -/
theorem decodeListing_of_preamble (h : ∀ b ∈ bs.take 4, b = preambleByte) :
    decodeListing bs = decodeListing (preamble ++ bs.drop 4) := by
  have hgood : ¬(bs.take 4).any (fun b => b != preambleByte) = true := by simpa using h
  rw [decodeListing, if_neg hgood]
  rfl

theorem decodeListing_preamble : decodeListing preamble = .error .short := rfl

theorem decodeListing_len_zero : decodeListing (preamble ++ 0 :: rest) = .error .length := rfl

theorem decodeListing_len_short (hne : len ≠ 0) (h : rest.length < len.toNat) :
    decodeListing (preamble ++ len :: rest) = .error .short := by
  simp [decodeListing, preamble, show ¬ len = 0#8 from hne, h]

end

/-- Settles O42, by the case equations of the listing decoder. -/
theorem listingIsReadOrRefusedByCause : Obligations.ListingIsReadOrRefusedByCause := by
  intro bs
  refine ⟨fun i b hi hb hne => ?_, fun hgood => ⟨fun hshort => ?_, fun len rest hdrop => ⟨?_, fun hne hlt => ?_, ?_⟩⟩⟩
  · have hmem : (bs.take 4)[i]? = some b := by rw [List.getElem?_take_of_lt hi, hb]
    exact decodeListing_of_bad_preamble ⟨b, List.mem_of_getElem? hmem, hne⟩
  · rw [decodeListing_of_preamble hgood, List.drop_eq_nil_of_le hshort]
    exact decodeListing_preamble
  · rintro rfl
    rw [decodeListing_of_preamble hgood, hdrop]
    exact decodeListing_len_zero
  · rw [decodeListing_of_preamble hgood, hdrop]
    exact decodeListing_len_short hne hlt
  · rintro cmd payload left hlen rfl
    have hn : payload.length ≤ maxPayload := by have := len.isLt; simp only [maxPayload]; omega
    have hlenByte : len = lenByte payload := BitVec.eq_of_toNat_eq (by rw [lenByte_toNat hn, hlen])
    rw [decodeListing_of_preamble hgood, hdrop, hlenByte]
    simpa using Laws.decodeListing_frame cmd payload left hn

end Sys2Proof
end

section
/-! The header of a frame as one number (30_encoding.md R60, R81). -/

namespace Sys2Proof

open Sys2Proof.Machine

theorem headerWord_frameBytes (r : Bool) (cmd : Byte) (payload : List Byte) :
    headerWord (frameBytes r cmd payload) = (0xA5A5A5A5#32 ++ lenByte payload ++ cmd : BitVec 48) := by
  rw [frameBytes_eq_cons]
  exact congrArg (fun v : BitVec 32 => (v ++ lenByte payload ++ cmd : BitVec 48))
    (show (preambleByte ++ preambleByte ++ preambleByte ++ preambleByte : BitVec 32) = 0xA5A5A5A5 from rfl)

theorem lenByte_txctlPayload (on : Bool) : lenByte (txctlPayload on) = 2 := rfl

theorem lenByte_freqPayload (hz : Hz) : lenByte (freqPayload hz) = 9 := rfl

theorem lenByte_modePayload (id : Byte) : lenByte (modePayload id) = 3 := rfl

/-- The generic row's mask keeps the preamble alone. -/
theorem header_and_genericMask (len cmd : Byte) :
    (0xA5A5A5A5#32 ++ len ++ cmd : BitVec 48) &&& 0xFFFFFFFF0000 = 0xA5A5A5A50000 := by
  calc (0xA5A5A5A5#32 ++ len ++ cmd : BitVec 48) &&& (0xFFFFFFFF#32 ++ 0#8 ++ 0#8 : BitVec 48)
    _ = ((0xA5A5A5A5#32 &&& 0xFFFFFFFF#32) ++ (len &&& 0#8) ++ (cmd &&& 0#8) : BitVec 48) :=
      BitVec.and_append.trans (congrArg (fun v : BitVec 40 => (v ++ (cmd &&& 0#8) : BitVec 48)) BitVec.and_append)
    _ = 0xA5A5A5A50000 := by rw [BitVec.and_zero, BitVec.and_zero]; rfl

/-- Settles O44, by the row: a command row's header is constant, and the generic row masks out what is not. -/
theorem encodedHeaderBelongsToItsRow : Obligations.EncodedHeaderBelongsToItsRow := by
  intro r i bs _ henc
  obtain ⟨cmd, payload, hc, -, rfl⟩ := encodeInstr_eq_some henc
  rw [headerWord_frameBytes]
  refine ⟨?_, header_and_genericMask _ _⟩
  cases i with
  | frame c p => exact ⟨_, _, rfl, rfl, header_and_genericMask _ _⟩
  | txctl on => cases hc; exact ⟨_, _, rfl, rfl, by rw [lenByte_txctlPayload]; rfl⟩
  | freq hz => cases hc; exact ⟨_, _, rfl, rfl, by rw [lenByte_freqPayload]; rfl⟩
  | mode id => cases hc; exact ⟨_, _, rfl, rfl, by rw [lenByte_modePayload]; rfl⟩
  | status => cases hc; exact ⟨_, _, rfl, rfl, rfl⟩
  | _ => cases hc

end Sys2Proof
end

section
/-! Each step of an exchange as `exec` runs its unit operation (30_encoding.md R77, 43_command_frames.md R164, R165). -/

namespace Sys2Proof.Machine

section
variable {s u : State}

theorem advance_of_free (hx : s.exchange = .free) : advance s = .next s := by
  simp [advance, hx]

theorem advance_of_sending {query : Bool} {start : Nat} (hx : s.exchange = .sending query start)
    (h : exec .encStep s = .next u) :
    advance s = if u.enc.state = .idle then .next (frameSent query start u) else .next u := by
  have hstep : encStep s = .next u := h
  simp [advance, hx, sendStep, hstep]

theorem advance_of_reading (hx : s.exchange = .reading) (hf : s.readFault = false) (h : exec .decStart s = .next u) :
    advance s = .next (u.setExchange (.pushing (min s.cfg.rxWindow s.rx.length))) := by
  have hstart : decStart s = .next u := h
  simp [advance, hx, readReturns, hf, hstart]

theorem advance_of_pushing_byte {k : Nat} {b : Byte} {rest : List Byte} (hx : s.exchange = .pushing (k + 1))
    (hrx : s.rx = b :: rest) (h : exec (.decPush b) s = .next u) : advance s = .next (u.setExchange (.pushing k)) := by
  have hpush : decPush b s = .next u := h
  simp [advance, hx, pushStep, hrx, hpush]

theorem pushStep_end {k : Nat} (hend : k = 0 ∨ s.rx = []) :
    pushStep k s = Result.andThen (decEnd s) fun t => .next (t.setExchange .result) := by
  unfold pushStep
  split
  · next k b rest hrx => simp [hrx] at hend
  · rfl

theorem advance_of_pushing_end {k : Nat} (hx : s.exchange = .pushing k) (hend : k = 0 ∨ s.rx = [])
    (h : exec .decEnd s = .next u) : advance s = .next (u.setExchange .result) := by
  have hdec : decEnd s = .next u := h
  simp [advance, hx, pushStep_end hend, hdec]

theorem advance_of_result_pending (hx : s.exchange = .result) (h : exec .decResult s = .next u)
    (hret : u.ret = .pending) : advance s = .next u := by
  have hres : decResult s = .next u := h
  simp [advance, hx, resultStep, hres, hret]

theorem advance_of_result_decoded {d : Decoded} (hx : s.exchange = .result) (h : exec .decResult s = .next u)
    (hret : u.ret = .decoded d) :
    advance s =
      .next ((u.setExchange .free).answer (.status (parseStatus s.cfg d).1 (parseStatus s.cfg d).2)) := by
  have hres : decResult s = .next u := h
  simp [advance, hx, resultStep, hres, hret, exec_cfg h]

end

/-- Settles O35, one phase of the exchange after the other. -/
theorem exchangeStepsAreUnitOperations : Obligations.ExchangeStepsAreUnitOperations := by
  intro s u
  refine ⟨advance_of_free, fun query start hx h => ?_, advance_of_reading, fun k b rest => advance_of_pushing_byte,
    fun k => advance_of_pushing_end, fun hx h => ⟨advance_of_result_pending hx h, fun d => advance_of_result_decoded hx h⟩⟩
  rw [advance_of_sending hx h]
  refine ⟨fun hbusy => if_neg hbusy, ?_, ?_⟩
  · rintro hidle rfl
    exact if_pos hidle
  · rintro hidle rfl
    exact if_pos hidle

end Sys2Proof.Machine
end

section
/-! Frames written out from the spec, as the wire decoder reads them. -/

namespace Sys2Proof

/-- Settles O45, by running the decoder on each frame. -/
theorem writtenOutFramesDecode : Obligations.WrittenOutFramesDecode := by
  unfold Obligations.WrittenOutFramesDecode
  decide +kernel

end Sys2Proof
end

section
/-! The text lines that ask for frames (30_encoding.md R80): a line without white space at its ends, the words of a mode
line, and the decimal digits of a number. -/

namespace Sys2Proof.Machine

/-! ### Lines -/

theorem dropWhile_isBlank_eq_self {l : List Byte} (h : ∀ b ∈ l.head?, isBlank b = false) : l.dropWhile isBlank = l := by
  cases l with
  | nil => rfl
  | cons b bs => rw [List.dropWhile_cons_of_neg (by simp [h b rfl])]

/-- A line with no white space at either end is trimmed already. -/
theorem trimmed_eq_self {line : List Byte} (hhead : ∀ b ∈ line.head?, isBlank b = false)
    (hlast : ∀ b ∈ line.getLast?, isBlank b = false) : trimmed line = line := by
  rw [trimmed, dropWhile_isBlank_eq_self hhead,
    dropWhile_isBlank_eq_self (by rwa [List.head?_reverse]), List.reverse_reverse]

section
variable {cfg : Config} {line rest : List Byte}

theorem lineAction_of_trimmed_frequency (h : trimmed line = 0x46 :: rest) : lineAction cfg line = frequencyLine rest := by
  rw [lineAction, h]
  exact if_pos rfl

theorem lineAction_of_trimmed_mode (h : trimmed line = 0x4D :: rest) : lineAction cfg line = modeLine cfg rest := by
  rw [lineAction, h]
  exact (if_neg (by decide)).trans (if_pos rfl)

end

/-! ### Mode lines -/

/-- The bytes of a word are collected before anything else happens. -/
theorem wordsOf_append {word : List Byte} (rest acc : List Byte) (h : ∀ b ∈ word, isBlank b = false) :
    wordsOf (word ++ rest) acc = wordsOf rest (word.reverse ++ acc) := by
  induction word generalizing acc with
  | nil => rfl
  | cons b word ih =>
    obtain ⟨hb, hword⟩ := List.forall_mem_cons.mp h
    simp [wordsOf, hb, ih _ hword]

/-- White space ends the word that was collected. -/
theorem wordsOf_blank {b : Byte} (rest : List Byte) {acc : List Byte} (hb : isBlank b = true) (hacc : acc ≠ []) :
    wordsOf (b :: rest) acc = acc.reverse :: wordsOf rest [] := by
  simp [wordsOf, hb]

/-- Two words with a space between them. -/
theorem wordsOf_two {name width : List Byte} (hname : name ≠ []) (hwidth : width ≠ [])
    (h : ∀ b ∈ name ++ width, isBlank b = false) : wordsOf (name ++ 0x20 :: width) [] = [name, width] := by
  obtain ⟨hn, hw⟩ := List.forall_mem_append.mp h
  have hwords : wordsOf width [] = [width] := by
    simpa [wordsOf, hwidth] using wordsOf_append [] [] hw
  rw [wordsOf_append _ [] hn, wordsOf_blank width (by decide) (by simpa using hname), hwords, List.append_nil,
    List.reverse_reverse]

theorem lineAction_mode (cfg : Config) {name width : List Byte} (hname : name ≠ []) (hwidth : width ≠ [])
    (h : ∀ b ∈ name ++ width, isBlank b = false) :
    lineAction cfg (0x4D :: 0x20 :: (name ++ 0x20 :: width)) =
      .run (.mode (BitVec.ofNat 8 (modeNameToId cfg name))) := by
  obtain ⟨-, hw⟩ := List.forall_mem_append.mp h
  have hlast : (0x4D :: 0x20 :: (name ++ 0x20 :: width)).getLast? = width.getLast? := by
    simp [List.getLast?_cons, List.getLast?_eq_getLast_of_ne_nil hwidth]
  have htrim := trimmed_eq_self (line := 0x4D :: 0x20 :: (name ++ 0x20 :: width)) (by simp [isBlank])
    fun b hb => hw b (List.mem_of_getLast? (hlast ▸ hb))
  rw [lineAction_of_trimmed_mode htrim, modeLine, if_pos (by decide), wordsOf_two hname hwidth h]

/-! ### Frequency lines -/

/-- The ASCII digits of a number, most significant first. -/
def digitBytes (ds : List (Fin 10)) : List Byte := ds.map fun d => BitVec.ofNat 8 (0x30 + d.val)

/-- The number with these decimal digits, most significant first. -/
def digitsValue (ds : List (Fin 10)) : Nat := Nat.ofDigits 10 (ds.reverse.map Fin.val)

theorem digitByte_facts (d : Fin 10) :
    0x30 ≤ BitVec.ofNat 8 (0x30 + d.val) ∧ BitVec.ofNat 8 (0x30 + d.val) ≤ 0x39 ∧
      (BitVec.ofNat 8 (0x30 + d.val)).toNat - 0x30 = d.val := by
  decide +revert

theorem digitBytes_range {ds : List (Fin 10)} {b : Byte} (h : b ∈ digitBytes ds) : 0x30 ≤ b ∧ b ≤ 0x39 := by
  obtain ⟨d, -, rfl⟩ := List.mem_map.mp h
  obtain ⟨hlo, hhi, -⟩ := digitByte_facts d
  exact ⟨hlo, hhi⟩

theorem digitBytes_not_blank {ds : List (Fin 10)} {b : Byte} (h : b ∈ digitBytes ds) : isBlank b = false := by
  obtain ⟨d, -, rfl⟩ := List.mem_map.mp h
  clear h
  decide +revert

theorem digitBytes_ne_nil {ds : List (Fin 10)} (h : ds ≠ []) : digitBytes ds ≠ [] :=
  mt List.map_eq_nil_iff.mp h

/-- Digits read from the left give the number they write. -/
theorem foldl_digitBytes (ds : List (Fin 10)) :
    (digitBytes ds).foldl (fun acc b => acc * 10 + (b.toNat - 0x30)) 0 = digitsValue ds := by
  rw [digitsValue, Nat.ofDigits_eq_foldr, List.foldr_map, List.foldr_reverse, digitBytes, List.foldl_map]
  congr
  funext acc d
  obtain ⟨-, -, hval⟩ := digitByte_facts d
  rw [hval, Nat.cast_id]
  omega

theorem decimal_digitBytes {ds : List (Fin 10)} (h : ds ≠ []) : decimal (digitBytes ds) = some (digitsValue ds) := by
  have hall : (digitBytes ds).all (fun b => decide (0x30 ≤ b ∧ b ≤ 0x39)) = true :=
    List.all_eq_true.mpr fun b hb => decide_eq_true (digitBytes_range hb)
  rw [decimal, if_pos hall, foldl_digitBytes]
  exact digitBytes_ne_nil h

theorem integer_digitBytes {ds : List (Fin 10)} (h : ds ≠ []) :
    integer (digitBytes ds) = some (digitsValue ds : Int) := by
  obtain ⟨b, bs, hb⟩ := List.exists_cons_of_ne_nil (digitBytes_ne_nil h)
  obtain ⟨hlo, -⟩ : 0x30 ≤ b ∧ b ≤ 0x39 := digitBytes_range (ds := ds) (by simp [hb])
  have hminus : b ≠ 0x2D := by rintro rfl; exact absurd hlo (by decide)
  rw [hb, integer, if_neg hminus, ← hb, decimal_digitBytes h]
  rfl

theorem integer_minus_digitBytes {ds : List (Fin 10)} (h : ds ≠ []) :
    integer (0x2D :: digitBytes ds) = some (-(digitsValue ds : Int)) := by
  rw [integer, if_pos rfl, decimal_digitBytes h]
  rfl

/-- A frequency line without white space asks for what its text after the letter says. -/
theorem lineAction_frequency (cfg : Config) {text : List Byte} (h : ∀ b ∈ text, isBlank b = false) :
    lineAction cfg (0x46 :: text) = frequencyLine text := by
  have hline : ∀ b ∈ (0x46 : Byte) :: text, isBlank b = false := List.forall_mem_cons.mpr ⟨by decide, h⟩
  exact lineAction_of_trimmed_frequency
    (trimmed_eq_self (fun b hb => hline b (List.mem_of_head? hb)) fun b hb => hline b (List.mem_of_getLast? hb))

theorem frequencyLine_digitBytes {ds : List (Fin 10)} (h : ds ≠ []) :
    frequencyLine (digitBytes ds) =
      if digitsValue ds < 2 ^ 32 then .run (.freq (BitVec.ofNat 32 (digitsValue ds))) else .outOfDomain := by
  simp only [frequencyLine, integer_digitBytes h, Int.toNat_natCast]
  exact if_congr (by omega) rfl rfl

theorem frequencyLine_minus_digitBytes {ds : List (Fin 10)} (h : ds ≠ []) :
    frequencyLine (0x2D :: digitBytes ds) = if digitsValue ds = 0 then .run (.freq 0) else .outOfDomain := by
  simp only [frequencyLine, integer_minus_digitBytes h]
  by_cases hzero : digitsValue ds = 0
  · rw [if_pos hzero, hzero]; rfl
  · rw [if_neg hzero, if_neg (by omega)]

/-- Settles O60, one kind of line after the other. -/
theorem textLinesAskForTheirFrames : Obligations.TextLinesAskForTheirFrames := by
  intro cfg
  have hdigits (ds : List (Fin 10)) : ∀ b ∈ digitBytes ds, isBlank b = false := fun b => digitBytes_not_blank
  have hminus (ds : List (Fin 10)) : ∀ b ∈ 0x2D :: digitBytes ds, isBlank b = false :=
    List.forall_mem_cons.mpr ⟨by decide, hdigits ds⟩
  exact ⟨rfl, rfl, rfl, rfl, rfl, fun name width => lineAction_mode cfg,
    fun ds h => (lineAction_frequency cfg (hdigits ds)).trans (frequencyLine_digitBytes h),
    fun ds h => (lineAction_frequency cfg (hminus ds)).trans (frequencyLine_minus_digitBytes h)⟩

end Sys2Proof.Machine
end

section
/-! The CRC byte step (40_crc_generator.md R91 to R95, R100, R101). The data-free shift is linear over exclusive or and
loses nothing, and a byte enters at the end of the register that is shifted out. -/

namespace Sys2Proof.Machine

/-- A conditional exclusive or with a constant is linear in the condition and the value together. -/
theorem ite_xor_eq_xor_ite (p q : Bool) (a b k : Word) :
    (if p ^^ q then (a ^^^ b) ^^^ k else a ^^^ b) = (if p then a ^^^ k else a) ^^^ (if q then b ^^^ k else b) := by
  cases p <;> cases q
  · rfl
  · exact BitVec.xor_assoc a b k
  · calc (a ^^^ b) ^^^ k = a ^^^ (k ^^^ b) := by rw [BitVec.xor_assoc, BitVec.xor_comm b]
      _ = (a ^^^ k) ^^^ b := (BitVec.xor_assoc a k b).symm
  · calc a ^^^ b = a ^^^ ((k ^^^ k) ^^^ b) := by rw [BitVec.xor_self, BitVec.zero_xor]
      _ = (a ^^^ k) ^^^ (b ^^^ k) := by
        rw [BitVec.xor_comm b, ← BitVec.xor_assoc, ← BitVec.xor_assoc, ← BitVec.xor_assoc]

section
variable (r : Bool)

/-! ### The bit step -/

theorem crcBit_xor (a b : Word) (d e : Bool) : crcBit r (a ^^^ b) (d ^^ e) = crcBit r a d ^^^ crcBit r b e := by
  have hxor (p q : Bool) : ((p ^^ q) ^^ (d ^^ e)) = ((p ^^ d) ^^ (q ^^ e)) := by
    rw [Bool.xor_assoc, Bool.xor_left_comm q, Bool.xor_assoc]
  cases r with
  | true => simp only [crcBit, BitVec.getLsbD_xor, BitVec.ushiftRight_xor_distrib, hxor, ite_xor_eq_xor_ite]
  | false => simp only [crcBit, BitVec.getLsbD_xor, BitVec.shiftLeft_xor_distrib, hxor, ite_xor_eq_xor_ite]

theorem crcShift_eq_crcBit (c : Word) : crcShift r c = crcBit r c false := by
  cases r <;> simp [crcShift, crcBit]

theorem crcBit_eq_crcShift_xor (c : Word) (d : Bool) : crcBit r c d = crcShift r c ^^^ crcBit r 0 d := by
  rw [crcShift_eq_crcBit, ← crcBit_xor]
  simp

theorem crcShift_xor (a b : Word) : crcShift r (a ^^^ b) = crcShift r a ^^^ crcShift r b := by
  simp only [crcShift_eq_crcBit, ← crcBit_xor, Bool.xor_false]

/-- The constant sets the bit that was shifted in as 0, so a shift that feeds back is not 0. -/
theorem eq_zero_of_crcShift_eq_zero {c : Word} (h : crcShift r c = 0) : c = 0 := by
  cases r with
  | true =>
    simp only [crcShift, BitVec.getLsbD, Nat.testBit_zero, decide_eq_true_eq] at h
    split at h
    · have hpoly : c.toNat >>> 1 = 0x8408 := by
        simpa [crcPolyRev, BitVec.toNat_eq] using BitVec.xor_eq_zero_iff.mp h
      omega
    · bv_omega
  | false =>
    simp only [crcShift, BitVec.getLsbD, Nat.testBit_eq_decide_div_mod_eq, decide_eq_true_eq] at h
    split at h
    · have hpoly : c.toNat <<< 1 % 2 ^ 16 = 0x1021 := by
        simpa [crcPoly, BitVec.toNat_eq] using BitVec.xor_eq_zero_iff.mp h
      omega
    · bv_omega

theorem crcShift_injective : Function.Injective (crcShift r) := fun a b h =>
  BitVec.xor_eq_zero_iff.mp (eq_zero_of_crcShift_eq_zero r (by rw [crcShift_xor, h, BitVec.xor_self]; rfl))

theorem crcShifts_xor (k : Nat) (a b : Word) : crcShifts r k (a ^^^ b) = crcShifts r k a ^^^ crcShifts r k b := by
  induction k generalizing a b with
  | zero => rfl
  | succ k ih => rw [crcShifts, crcShift_xor, ih]; rfl

theorem crcShifts_injective (k : Nat) : Function.Injective (crcShifts r k) := by
  induction k with
  | zero => exact Function.injective_id
  | succ k ih => exact ih.comp (crcShift_injective r)

/-! ### The byte step as eight data-free shifts (R94 form (a)) -/

/-- Feeding bits is affine in the register: the register only passes through the shifts. -/
theorem foldl_crcBit (c : Word) (ds : List Bool) :
    ds.foldl (crcBit r) c = crcShifts r ds.length c ^^^ ds.foldl (crcBit r) 0 := by
  induction ds generalizing c with
  | nil => simp [crcShifts]
  | cons d ds ih =>
    rw [List.foldl_cons, ih, crcBit_eq_crcShift_xor, crcShifts_xor, BitVec.xor_assoc, ← ih]; rfl

/-- The byte at the end of the register that is shifted out: the low end when reflected, the high end when not. -/
def outWord (b : Byte) : Word :=
  match r with
  | true => b.setWidth 16
  | false => b.setWidth 16 <<< 8

/-- The byte of the register that is shifted out. -/
def outByte (c : Word) : Byte :=
  match r with
  | true => lo8 c
  | false => hi8 c

theorem crcByte_zero_eq_crcShifts : ∀ (r : Bool) (b : Byte), crcByte r 0 b = crcShifts r 8 (outWord r b) := by
  decide +kernel

theorem crcByte_eq_crcShifts (c : Word) (b : Byte) : crcByte r c b = crcShifts r 8 (c ^^^ outWord r b) := by
  have hlength : (bitsOf r b).length = 8 := by cases r <;> rfl
  rw [crcByte, foldl_crcBit, hlength, crcShifts_xor, ← crcByte_zero_eq_crcShifts]; rfl

theorem crcByteXorFirst_eq (c : Word) (b : Byte) : crcByteXorFirst r c b = crcByte r c b := by
  rw [crcByte_eq_crcShifts]; cases r <;> rfl

/-! ### The byte step from 0x0000 (R94 forms (b) and (c), R95) -/

@[simp] theorem crcByte_zero_zero : crcByte r 0 0#8 = 0#16 := by cases r <;> decide

@[simp] theorem outWord_zero : outWord r 0 = 0 := by cases r <;> rfl

@[simp] theorem outByte_outWord : ∀ (r : Bool) (b : Byte), outByte r (outWord r b) = b := by decide +kernel

@[simp] theorem outByte_outWord_not : ∀ (r : Bool) (b : Byte), outByte (!r) (outWord r b) = 0 := by decide +kernel

theorem outWord_xor (a b : Byte) : outWord r (a ^^^ b) = outWord r a ^^^ outWord r b := by
  cases r with
  | true => exact BitVec.setWidth_xor
  | false => simp [outWord, BitVec.shiftLeft_xor_distrib]

/-- The register is its two bytes, each at its own end. -/
theorem outWord_outByte_xor (c : Word) : outWord r (outByte r c) ^^^ outWord (!r) (outByte (!r) c) = c := by
  have hends : outWord true (lo8 c) ^^^ outWord false (hi8 c) = c := by
    grind [outWord, lo8, hi8]
  cases r with
  | true => exact hends
  | false => exact (BitVec.xor_comm ..).trans hends

/-- Eight shifts move the byte that stays to the other end, with nothing fed back. -/
theorem crcShifts_outWord_not : ∀ (r : Bool) (b : Byte), crcShifts r 8 (outWord (!r) b) = outWord r b := by
  decide +kernel

/-- The register enters the byte step through the byte that is shifted out; the other byte is only moved. -/
theorem crcByte_eq_xor_crcByte_zero (c : Word) (b : Byte) :
    crcByte r c b = crcByte r 0 (outByte r c ^^^ b) ^^^ outWord r (outByte (!r) c) := by
  rw [crcByte_zero_eq_crcShifts, ← crcShifts_outWord_not r (outByte (!r) c), ← crcShifts_xor, outWord_xor,
    crcByte_eq_crcShifts]
  conv_lhs => rw [← outWord_outByte_xor r c]
  congr 1
  ac_rfl

end

theorem crcByte_true_eq (c : Word) (b : Byte) : crcByte true c b = c >>> 8 ^^^ crcByte true 0 (lo8 c ^^^ b) := by
  have hmoved : outWord true (hi8 c) = c >>> 8 := by grind [outWord, hi8]
  rw [← hmoved, BitVec.xor_comm]
  exact crcByte_eq_xor_crcByte_zero true c b

theorem crcByte_false_eq (c : Word) (b : Byte) : crcByte false c b = c <<< 8 ^^^ crcByte false 0 (hi8 c ^^^ b) := by
  have hmoved : outWord false (lo8 c) = c <<< 8 := by grind [outWord, lo8]
  rw [← hmoved, BitVec.xor_comm]
  exact crcByte_eq_xor_crcByte_zero false c b

theorem tRef_getElem? : ∀ i : Byte, tRef[i.toNat]? = some (crcByte true 0 i) := by decide +kernel

theorem tNor_getElem? : ∀ i : Byte, tNor[i.toNat]? = some (crcByte false 0 i) := by decide +kernel

theorem tableAt_tRef (i : Byte) : tableAt tRef i = crcByte true 0 i := by
  rw [tableAt, List.getD_eq_getElem?_getD, tRef_getElem?, Option.getD_some]

theorem tableAt_tNor (i : Byte) : tableAt tNor i = crcByte false 0 i := by
  rw [tableAt, List.getD_eq_getElem?_getD, tNor_getElem?, Option.getD_some]

theorem crcByteTable_eq (r : Bool) (c : Word) (b : Byte) : crcByteTable r c b = crcByte r c b := by
  cases r with
  | true => rw [crcByte_true_eq, ← tableAt_tRef]; rfl
  | false => rw [crcByte_false_eq, ← tableAt_tNor]; rfl

theorem crcByteParallel_zero : ∀ (r : Bool) (b : Byte), crcByteParallel r 0 b = crcByte r 0 b := by decide +kernel

theorem crcByteParallel_eq (r : Bool) (c : Word) (b : Byte) : crcByteParallel r c b = crcByte r c b := by
  cases r with
  | true =>
    rw [crcByte_true_eq, ← crcByteParallel_zero]
    simp [crcByteParallel, lo8, BitVec.xor_assoc]
  | false =>
    rw [crcByte_false_eq, ← crcByteParallel_zero]
    simp [crcByteParallel, hi8, BitVec.xor_assoc]

/-- Settles O7: form (a) is the byte step because the register passes linearly through the shifts, forms (b) and (c)
because they agree with it on the register 0x0000. -/
theorem byteStepFormsAndTablesAgree : Obligations.ByteStepFormsAndTablesAgree :=
  ⟨fun r c b => ⟨crcByteXorFirst_eq r c b, crcByteTable_eq r c b, crcByteParallel_eq r c b⟩,
    by decide +kernel, by decide +kernel, fun i => ⟨tRef_getElem? i, tNor_getElem? i⟩⟩

/-! ### The byte step loses nothing (R100) -/

section
variable (r : Bool)

theorem outWord_injective : Function.Injective (outWord r) :=
  Function.LeftInverse.injective (outByte_outWord r)

theorem crcByte_injective_register (b : Byte) : Function.Injective fun c => crcByte r c b := by
  simp only [crcByte_eq_crcShifts]
  exact (crcShifts_injective r 8).comp fun _ _ => (BitVec.xor_left_inj _).mp

theorem crcByte_injective_byte (c : Word) : Function.Injective fun b => crcByte r c b := by
  simp only [crcByte_eq_crcShifts]
  exact (crcShifts_injective r 8).comp fun _ _ h => outWord_injective r ((BitVec.xor_right_inj c).mp h)

end

/-- Settles O8: eight shifts are injective, and an injective map of the 16-bit register to itself is a bijection. -/
theorem byteStepIsBijective : Obligations.ByteStepIsBijective := fun r =>
  ⟨fun b => Finite.injective_iff_bijective.mp (crcByte_injective_register r b), crcByte_injective_byte r⟩

/-! ### Messages (R101) -/

section
variable (r : Bool)

theorem crcBytes_injective (m : List Byte) : Function.Injective fun c => crcBytes r c m := by
  induction m with
  | nil => exact Function.injective_id
  | cons b m ih => exact ih.comp (crcByte_injective_register r b)

theorem crc16_eq_crcBytes (m : List Byte) : crc16 r m = crcBytes r 0xFFFF m := xor_crcXorOut _

theorem crc16_append (m z : List Byte) : crc16 r (m ++ z) = crcBytes r (crc16 r m) z := by
  simp [crc16, crcBytes, List.foldl_append]

/-- Fed its own two bytes, the one that is shifted out first, the register comes to 0. -/
theorem crcByte_crcByte_outByte (c : Word) : crcByte r (crcByte r c (outByte r c)) (outByte (!r) c) = 0 := by
  have hfirst : crcByte r c (outByte r c) = outWord r (outByte (!r) c) := by
    rw [crcByte_eq_xor_crcByte_zero, BitVec.xor_self, crcByte_zero_zero, BitVec.zero_xor]
  rw [hfirst, crcByte_eq_xor_crcByte_zero, outByte_outWord, outByte_outWord_not, BitVec.xor_self, crcByte_zero_zero,
    BitVec.zero_xor, outWord_zero]

end

/-- Settles O9: the byte step tells the two bytes apart, and the suffix keeps the registers apart. -/
theorem oneByteChangesTheCrc : Obligations.OneByteChangesTheCrc := by
  intro r a z x y hne heq
  rw [crc16_append, crc16_append] at heq
  exact hne (crcByte_injective_byte r _ (crcBytes_injective r z heq))

/-- Settles O10: with `CRC_REFLECT` 0 the high byte of the checksum, sent first, is the byte that is
shifted out first. -/
theorem residueOfAFrame : Obligations.ResidueOfAFrame := by
  refine ⟨fun m => ?_, by decide +kernel, ⟨[], by decide +kernel⟩, fun r => ?_⟩
  · rw [crc16_append]
    exact crcByte_crcByte_outByte false (crc16 false m)
  · have hones (r : Bool) : outByte r 0xFFFF = 0xFF := by cases r <;> rfl
    have hzero := crcByte_crcByte_outByte r 0xFFFF
    rw [hones, hones, ← crc16_nil r, ← crc16_concat, ← crc16_concat] at hzero
    exact hzero

end Sys2Proof.Machine
end

section
/-! The operations of CRCG (40_crc_generator.md R96 to R99). -/

namespace Sys2Proof.Machine

/-! ### One operation -/

section
variable (s : State)

@[simp] theorem exec_crcInit : exec .crcInit s = .next { s with crc := 0xFFFF, ret := .nothing } := rfl

@[simp] theorem exec_crcBit (d : Bool) :
    exec (.crcBit d) s = .next { s with crc := crcBit s.reflect s.crc d, ret := .nothing } := rfl

@[simp] theorem exec_crcByte (b : Byte) :
    exec (.crcByte b) s = .next { s with crc := crcByte s.reflect s.crc b, ret := .nothing } := rfl

@[simp] theorem exec_crcRead : exec .crcRead s = .next { s with ret := .crc s.crc } :=
  congrArg (fun c : Word => Host.Outcome.next (s.answer (.crc c))) (xor_crcXorOut s.crc)

end

/-- Settles O3: `CRC_XOROUT` is 0, so the register is read as it is. -/
theorem crcInitAndReadEffects : Obligations.CrcInitAndReadEffects := fun s => ⟨exec_crcInit s, exec_crcRead s⟩

/-- Settles O4: `crcBit` at each value of `CRC_REFLECT` is R91's arm. -/
theorem crcBitShiftsTheRegister : Obligations.CrcBitShiftsTheRegister := by
  refine fun d s => ⟨fun h => ?_, fun h => ?_⟩
  · rw [exec_crcBit, h]; rfl
  · rw [exec_crcBit, h]; rfl

/-! ### Runs -/

/-- A run of CRC.BITs feeds the bits in order. -/
theorem runOps_crcBit (d : Bool) (ds : List Bool) (s : State) :
    runOps ((d :: ds).map .crcBit) s =
      .next { s with crc := (d :: ds).foldl (crcBit s.reflect) s.crc, ret := .nothing } := by
  induction ds generalizing d s with
  | nil => rfl
  | cons e ds ih => rw [List.map_cons, runOps_cons, exec_crcBit, andThen_next, ih]; rfl

/-- CRC.BYTEs and then CRC.READ: the register takes the bytes in order, and what it comes to is answered. -/
theorem runOps_crcByte_crcRead (m : List Byte) (s : State) :
    runOps (m.map .crcByte ++ [.crcRead]) s =
      .next { s with crc := crcBytes s.reflect s.crc m, ret := .crc (crcBytes s.reflect s.crc m) } := by
  induction m generalizing s with
  | nil => simp [crcBytes]
  | cons b m ih => rw [List.map_cons, List.cons_append, runOps_cons, exec_crcByte, andThen_next, ih]; rfl

/-- `bitsOf` lists the bits of a byte in the order CRC.BYTE feeds them (R92). -/
theorem runOps_bitsOf {r : Bool} {s : State} (b : Byte) (h : s.reflect = r) :
    runOps ((bitsOf r b).map .crcBit) s = .next { s with crc := crcByte s.reflect s.crc b, ret := .nothing } := by
  subst h
  rw [crcByte]
  cases hr : s.reflect with
  | true => rw [bitsOf, runOps_crcBit, hr]
  | false => rw [bitsOf, runOps_crcBit, hr]

/-- Settles O5: CRC.BYTE folds `crcBit` over `bitsOf`, and the CRC.BITs do so one after the other. -/
theorem crcByteIsEightBits : Obligations.CrcByteIsEightBits := fun b s =>
  ⟨crcByte s.reflect s.crc b, exec_crcByte s b, runOps_bitsOf b, runOps_bitsOf b⟩

/-- Settles O6, by the run of CRC.BYTEs and CRC.READ from 0xFFFF and from the register of the earlier message. -/
theorem crcRunReturnsCrc16 : Obligations.CrcRunReturnsCrc16 := by
  refine fun m s => ⟨?_, fun m0 h => ?_⟩
  · rw [runOps_cons, exec_crcInit, andThen_next, runOps_crcByte_crcRead, crc16_eq_crcBytes]
    rfl
  · rw [crc16_append, ← h]
    exact runOps_crcByte_crcRead m s

end Sys2Proof.Machine
end

section
/-! The operations of FENC as equations (41_frame_encoder.md R111, R112, R119), and a command operation whose start is
refused (R114, R115). -/

namespace Sys2Proof.Machine

section
variable {cmd : Byte} {payload : List Byte} {e : Fenc} {s : State}

theorem fencStart_of_busy (hs : e.state ≠ .idle) :
    fencStart cmd payload e = ({ e with status := e.status ||| 2#2 }, .busy) := by
  rcases fencStart_cases cmd payload e with ⟨-, h⟩ | ⟨h, -⟩ | ⟨h, -⟩
  · exact h
  · exact absurd h hs
  · exact absurd h hs

theorem fencStart_of_long (hs : e.state = .idle) (hn : maxPayload < payload.length) :
    fencStart cmd payload e = ({ e with status := e.status ||| 1#2 }, .length) := by
  rcases fencStart_cases cmd payload e with ⟨h, -⟩ | ⟨-, -, h⟩ | ⟨-, h, -⟩
  · exact absurd hs h
  · exact h
  · omega

theorem encStart_of_busy (hs : s.enc.state ≠ .idle) :
    encStart cmd payload s =
      .next { s with enc := { s.enc with status := s.enc.status ||| 2#2 }, ret := .start .busy } := by
  rw [encStart, fencStart_of_busy hs]; rfl

theorem encStart_of_long (hs : s.enc.state = .idle) (hn : maxPayload < payload.length) :
    encStart cmd payload s =
      .next { s with enc := { s.enc with status := s.enc.status ||| 1#2 }, ret := .start .length } := by
  rw [encStart, fencStart_of_long hs hn]; rfl

/-- Settles O11, by the three answers of a start; the payload is read back from the buffer it was written to. -/
theorem encStartEffects : Obligations.EncStartEffects := by
  refine fun cmd payload s => ⟨fun hs hn => ⟨Memory.writeFrom [] 0 payload, ?_, fun i hi => ?_⟩, encStart_of_busy,
    encStart_of_long⟩
  · show encStart cmd payload s = _
    rw [encStart, fencStart_of_idle hs hn]
    rfl
  · rw [Memory.read_writeFrom, if_pos (by omega), Nat.sub_zero]

/-- A refused start is all a command operation does (log 15). -/
theorem startExchange_eq_encStart (query : Bool) (h : (fencStart cmd payload s.enc).2 ≠ .accepted) :
    startExchange query cmd payload s = encStart cmd payload s := by
  obtain ⟨-, e⟩ | ⟨hacc, -⟩ := startExchange_cases query cmd payload s
  · exact e
  · exact absurd hacc h

theorem startExchange_of_busy (query : Bool) (hs : s.enc.state ≠ .idle) :
    startExchange query cmd payload s =
      .next { s with enc := { s.enc with status := s.enc.status ||| 2#2 }, ret := .start .busy } := by
  rw [startExchange_eq_encStart query (by simp [fencStart_of_busy hs]), encStart_of_busy hs]

theorem startExchange_of_long (query : Bool) (hs : s.enc.state = .idle) (hn : maxPayload < payload.length) :
    startExchange query cmd payload s =
      .next { s with enc := { s.enc with status := s.enc.status ||| 1#2 }, ret := .start .length } := by
  rw [startExchange_eq_encStart query (by simp [fencStart_of_long hs hn]), encStart_of_long hs hn]

theorem exec_mode_of_le {id : Byte} (h : id ≤ maxModeId) :
    exec (.mode id) s = startExchange false opMode (modePayload id) s := if_pos h

/-- Settles O34: each command operation begins with its start, and a refused start is all it does. -/
theorem commandsAreRefusedLikeTheirStart : Obligations.CommandsAreRefusedLikeTheirStart := by
  refine fun s => ⟨fun hs i hi => ?_, fun hs cmd payload => startExchange_of_long false hs⟩
  rcases hi with rfl | ⟨on, rfl⟩ | ⟨hz, rfl⟩ | ⟨cmd, payload, rfl⟩ | ⟨id, hid, rfl⟩
  · exact startExchange_of_busy true hs
  · exact startExchange_of_busy false hs
  · exact startExchange_of_busy false hs
  · exact startExchange_of_busy false hs
  · rw [exec_mode_of_le hid]
    exact startExchange_of_busy false hs

theorem exec_encStep_of_idle (hs : s.enc.state = .idle) : exec .encStep s = .next (s.answer .idle) := by
  simp only [exec, execEncStep, encStep, fencStep, hs]
  rfl

/-- The byte FENC gives goes to `TX` and is the answer, with its mark. -/
theorem exec_encStep_of_fencStep {b : Byte} {last : Bool} (h : fencStep s.reflect s.enc = .ok (e, some (b, last))) :
    exec .encStep s = .next { s with enc := e, tx := s.tx ++ [b], ret := .byte b last } := by
  simp only [exec, execEncStep, encStep, h]
  rfl

end

/-- Settles O13: in each state, FENC's own step; `CRC_XOROUT` is 0, so the checksum bytes are those of the register. -/
theorem encStepEffects : Obligations.EncStepEffects := by
  refine fun s => ⟨exec_encStep_of_idle, fun hs hi => ?_, fun hs hi => ?_, fun hs => ?_, fun hs => ?_,
    fun b hs hlt hb => ?_, fun hs => ?_, fun hs => ?_⟩
  · exact exec_encStep_of_fencStep (by simpa [fencStep, hs, preambleByte] using hi)
  · exact exec_encStep_of_fencStep (by simp [fencStep, hs, hi, preambleByte])
  · exact exec_encStep_of_fencStep (by simp [fencStep, hs])
  · exact exec_encStep_of_fencStep (by simp [fencStep, hs])
  · have hp : fencPayload s.enc = some b := by rw [fencPayload, if_pos hlt, hb]
    refine ⟨fun hi => ?_, fun hi => ?_⟩
    · exact exec_encStep_of_fencStep (by simpa [fencStep, hs, hp] using hi)
    · exact exec_encStep_of_fencStep (by simpa [fencStep, hs, hp] using hi)
  · exact exec_encStep_of_fencStep (by simp [fencStep, hs, hi8])
  · exact exec_encStep_of_fencStep (by simp [fencStep, hs, lo8])

/-- Settles O14: ENC.STATUS writes its answer alone. -/
theorem encStatusReturnsStateAndFlags : Obligations.EncStatusReturnsStateAndFlags := fun _ => rfl

end Sys2Proof.Machine
end

section
/-! The end of FENC's run (41_frame_encoder.md R118): `TX` is whole frames, or a RESET has left a part of one for good
(70_reset_and_hazards.md R226). -/

namespace Sys2Proof.Machine

/-- Once the first byte of the frame is out and until the last one is, some but not all of it is in `TX`. -/
theorem midFrame_eq_true {e : Fenc} (hs : e.state ≠ .idle) (hfirst : e.state = .pre → e.idx ≠ 0) :
    midFrame e = true := by
  suffices e.progress ≠ 0 by simpa [midFrame] using this
  cases hst : e.state with
  | idle => exact absurd hst hs
  | pre =>
    simp only [Fenc.progress, hst]
    exact fun h => hfirst hst (BitVec.eq_of_toNat_eq h)
  | len | cmd | pay | crcHi | crcLo => simp [Fenc.progress, hst]

section
variable {s t : State}

theorem EncoderDone.wholeFrames (hdone : EncoderDone s) (h : TxInv s) : WholeFrames s.reflect s.tx := by
  obtain ⟨hidle, hpartial⟩ := hdone
  exact (txCovers_iff_of_progress_zero (Fenc.progress_of_idle hidle)).mp (txInv_iff.mp h hpartial)

theorem not_encoderDone_of_partialTx (h : s.partialTx = true) : ¬EncoderDone s := by
  rintro ⟨-, hpartial⟩
  simp [h] at hpartial

theorem exec_reset_partialTx (h : exec .reset s = .next t) : t.partialTx = (s.partialTx || midFrame s.enc) := by
  cases h; rfl

theorem exec_keeps_partialTx {i : Instr} (hp : s.partialTx = true) (h : exec i s = .next t) : t.partialTx = true := by
  by_cases hi : i = .reset
  · subst hi
    rw [exec_reset_partialTx h, hp, Bool.true_or]
  · rw [(exec_frameMoves hi h).partialTx_eq, hp]

/-- No step takes the mark of an abandoned frame back. -/
theorem step_keeps_partialTx (hp : s.partialTx = true) (h : step s = .next t) : t.partialTx = true := by
  obtain ⟨i, rest, hexec⟩ | ⟨rest, hadv⟩ | ⟨b, rest, rfl⟩ | ⟨rest, rfl⟩ := step_next h
  · exact exec_keeps_partialTx (s := s.setInputs rest) hp hexec
  · exact (advance_frameMoves hadv).partialTx_eq.trans hp
  · exact hp
  · exact hp

end

/-- Settles O56: an idle FENC has no byte of a frame out, RESET marks what it abandons, and the mark stays. -/
theorem doneMeansWholeFrames : Obligations.DoneMeansWholeFrames := by
  refine ⟨fun s h hdone => hdone.wholeFrames h, fun s t => ⟨fun hs hfirst h => ?_, fun hp h => ?_⟩⟩
  · have ht : t.partialTx = true := by rw [exec_reset_partialTx h, midFrame_eq_true hs hfirst, Bool.or_true]
    exact ⟨not_encoderDone_of_partialTx ht, ht⟩
  · have ht := step_keeps_partialTx hp h
    exact ⟨not_encoderDone_of_partialTx ht, ht⟩

end Sys2Proof.Machine
end

section
/-! FENC from its start to the end of its frame (41_frame_encoder.md R113): ENC.STEPs alone, ENC.STEPs with other unit
operations between them, and the ENC.STEPs of an exchange. -/

namespace Sys2Proof.Machine

/-- What the ENC.STEP answers that finds `k` bytes of the frame emitted. -/
def stepAnswer (r : Bool) (cmd : Byte) (payload : List Byte) (k : Nat) : Ret :=
  match (frameBytes r cmd payload)[k]? with
  | some b => .byte b (decide (k = payload.length + 7))
  | none => .idle

section
variable {r : Bool} {cmd : Byte} {payload : List Byte} {k : Nat}

theorem stepAnswer_of_byte {b : Byte} (h : (frameBytes r cmd payload)[k]? = some b) :
    stepAnswer r cmd payload k = .byte b (decide (k = payload.length + 7)) := by
  simp only [stepAnswer, h]

theorem stepAnswer_of_le (h : payload.length + 8 ≤ k) : stepAnswer r cmd payload k = .idle := by
  have hnone : (frameBytes r cmd payload)[k]? = none := List.getElem?_eq_none (by rwa [frameBytes_length])
  simp only [stepAnswer, hnone]

theorem frameBytes_take_of_le (h : payload.length + 8 ≤ k) :
    (frameBytes r cmd payload).take k = frameBytes r cmd payload :=
  List.take_of_length_le (by rwa [frameBytes_length])

end

/-- `k` ENC.STEPs after an accepted start in `s₀`: the frame's first `k` bytes are out, and FENC is in the middle of the
frame or, from step `n + 8` on, idle. -/
structure FrameEmitted (s₀ : State) (cmd : Byte) (payload : List Byte) (k : Nat) (s : State) : Prop where
  reflect_eq : s.reflect = s₀.reflect
  tx_eq : s.tx = s₀.tx ++ (frameBytes s₀.reflect cmd payload).take k
  phase : (k < payload.length + 8 ∧ FencAt s₀.reflect cmd payload k s.enc) ∨
    (payload.length + 8 ≤ k ∧ s.enc.state = .idle)

section
variable {s₀ s t : State} {cmd : Byte} {payload : List Byte} {k : Nat}

theorem exec_encStart_frameEmitted (hs : s.enc.state = .idle) (hn : payload.length ≤ maxPayload) :
    ∃ t, exec (.encStart cmd payload) s = .next t ∧ FrameEmitted s cmd payload 0 t := by
  refine ⟨(s.setEnc (Fenc.started cmd payload s.enc.status)).answer (.start .accepted), ?_,
    rfl, by simp, .inl ⟨by omega, Fenc.started_fencAt _ hn⟩⟩
  show encStart cmd payload s = _
  rw [encStart, fencStart_of_idle hs hn]

theorem FrameEmitted.idle_iff (h : FrameEmitted s₀ cmd payload k s) :
    s.enc.state = .idle ↔ payload.length + 8 ≤ k := by
  obtain ⟨-, -, ⟨hk, hat⟩ | ⟨hk, hidle⟩⟩ := h
  · exact iff_of_false hat.busy (by omega)
  · exact iff_of_true hidle hk

/-! ### ENC.STEPs alone -/

/-- ENC.STEP emits and answers the next byte, or finds FENC idle and emits nothing. -/
theorem FrameEmitted.exec_encStep (h : FrameEmitted s₀ cmd payload k s) :
    ∃ t, exec .encStep s = .next t ∧ FrameEmitted s₀ cmd payload (k + 1) t ∧
      t.ret = stepAnswer s₀.reflect cmd payload k := by
  obtain ⟨hr, htx, ⟨hk, hat⟩ | ⟨hk, hidle⟩⟩ := h
  · obtain ⟨e, b, last, hstep, hb, -, hphase⟩ := (hr ▸ hat : FencAt s.reflect cmd payload k s.enc).encStep_emits
    rw [hr] at hb hphase
    have htx' : s.tx ++ [b] = s₀.tx ++ (frameBytes s₀.reflect cmd payload).take (k + 1) := by
      rw [htx, List.append_assoc, List.take_add_one, hb, Option.toList_some]
    refine ⟨_, hstep, ⟨hr, htx', ?_⟩, ?_⟩
    · rcases hphase with ⟨hlast, -, hidle⟩ | ⟨hlt, -, hat'⟩
      · exact .inr ⟨by omega, hidle⟩
      · exact .inl ⟨by omega, hat'⟩
    · rw [stepAnswer_of_byte hb]
      rcases hphase with ⟨hlast, rfl, -⟩ | ⟨hlt, rfl, -⟩
      · rw [decide_eq_true hlast]; rfl
      · rw [decide_eq_false (by omega)]; rfl
  · refine ⟨_, exec_encStep_of_idle hidle, ⟨hr, ?_, .inr ⟨by omega, hidle⟩⟩, (stepAnswer_of_le hk).symm⟩
    rw [frameBytes_take_of_le (by omega)]
    rwa [frameBytes_take_of_le hk] at htx

theorem FrameEmitted.runOps_encStep (h : FrameEmitted s₀ cmd payload k s) (j : Nat) :
    ∃ t, runOps (List.replicate (j + 1) .encStep) s = .next t ∧ FrameEmitted s₀ cmd payload (k + j + 1) t ∧
      t.ret = stepAnswer s₀.reflect cmd payload (k + j) := by
  induction j with
  | zero =>
    obtain ⟨t, hexec, ht⟩ := h.exec_encStep
    exact ⟨t, by simp [hexec], ht⟩
  | succ j ih =>
    obtain ⟨t, hrun, ht, -⟩ := ih
    obtain ⟨u, hexec, hu⟩ := ht.exec_encStep
    exact ⟨u, by rw [List.replicate_succ', runOps_append, hrun]; simp [hexec], hu⟩

/-- Settles O15: each ENC.STEP after the start carries the frame one byte on, and the one after the last finds FENC idle. -/
theorem encoderEmitsExactlyEncode : Obligations.EncoderEmitsExactlyEncode := by
  intro cmd payload s hs hn
  obtain ⟨u, hstart, hu⟩ := exec_encStart_frameEmitted (cmd := cmd) hs hn
  simp only [runOps_cons, hstart, andThen_next]
  refine ⟨fun k hk => ?_, ?_⟩
  · cases k with
    | zero => exact ⟨u, rfl, hu.tx_eq, hu.idle_iff.trans (by omega), fun _ h => absurd h (Nat.lt_irrefl 0)⟩
    | succ j =>
      obtain ⟨t, hrun, ht, hret⟩ := hu.runOps_encStep j
      rw [Nat.zero_add] at ht hret
      refine ⟨t, hrun, ht.tx_eq, ht.idle_iff.trans (by omega), fun b _ hb => ?_⟩
      rw [hret, stepAnswer_of_byte (k := j) hb]
      simp
  · obtain ⟨t, hrun, ht, hret⟩ := hu.runOps_encStep (payload.length + 8)
    rw [Nat.zero_add] at ht hret
    have htx := ht.tx_eq
    rw [frameBytes_take_of_le (by omega)] at htx
    exact ⟨t, hrun, htx, hret.trans (stepAnswer_of_le (Nat.le_refl _))⟩

/-! ### With other unit operations between them -/

theorem IsUnitOp.cases {i : Instr} (h : IsUnitOp i) : (∃ c p, i = .encStart c p) ∨ i = .encStep ∨ IsOtherOp i := by
  obtain h | h := h
  · cases i with
    | encStart c p => exact .inl ⟨c, p, rfl⟩
    | encStep => exact .inr (.inl rfl)
    | encStatus => exact .inr (.inr (.inr (.inr rfl)))
    | _ => cases h
  · exact .inr (.inr (h.imp_right .inl))

/-- The flags are no part of a frame. -/
theorem FencAt.setStatus {r : Bool} {e : Fenc} (h : FencAt r cmd payload k e) (flags : BitVec 2) :
    FencAt r cmd payload k { e with status := flags } := by
  obtain ⟨hinv, hbusy, hcmd, hpay, hprog⟩ := h
  exact ⟨hinv, hbusy, hcmd, hpay, hprog⟩

/-- Before the frame is finished a start is refused, and every other operation but ENC.STEP leaves FENC and `TX` alone. -/
theorem FrameEmitted.exec_unitOp {i : Instr} (h : FrameEmitted s₀ cmd payload k s) (hk : k < payload.length + 8)
    (hi : IsUnitOp i) (hne : i ≠ .encStep) (hexec : exec i s = .next t) : FrameEmitted s₀ cmd payload k t := by
  obtain ⟨hr, htx, hphase⟩ := h
  have hat : FencAt s₀.reflect cmd payload k s.enc := by
    obtain ⟨-, hat⟩ | ⟨hle, -⟩ := hphase
    · exact hat
    · omega
  rcases hi.cases with ⟨c, p, rfl⟩ | rfl | hother
  · replace hexec : encStart c p s = .next t := hexec
    rw [encStart_of_busy hat.busy] at hexec
    cases hexec
    exact ⟨hr, htx, .inl ⟨hk, hat.setStatus _⟩⟩
  · exact absurd rfl hne
  · obtain ⟨⟨henc, htx', hcfg, -⟩, -⟩ := exec_sameFrame hother hexec
    exact ⟨(congrArg Config.crcReflect hcfg).trans hr, htx'.trans htx, .inl ⟨hk, henc ▸ hat⟩⟩

/-- Along any unit operations that do not finish the frame, it goes on by exactly the ENC.STEPs. -/
theorem FrameEmitted.runOps_unitOps {is : List Instr} (h : FrameEmitted s₀ cmd payload k s)
    (his : ∀ i ∈ is, IsUnitOp i) (hk : k + is.count .encStep < payload.length + 8) (hrun : runOps is s = .next t) :
    FrameEmitted s₀ cmd payload (k + is.count .encStep) t := by
  induction is generalizing s k with
  | nil => cases hrun; exact h
  | cons i is ih =>
    obtain ⟨hi, htail⟩ := List.forall_mem_cons.mp his
    obtain ⟨u, hexec, hrest⟩ := andThen_eq_next.mp hrun
    by_cases hstep : i = .encStep
    · subst hstep
      obtain ⟨v, hv, hemitted, -⟩ := h.exec_encStep
      obtain rfl : v = u := by simpa [hv] using hexec
      rw [List.count_cons_self, Nat.add_comm _ 1, ← Nat.add_assoc] at hk ⊢
      exact ih hemitted htail hk hrest
    · rw [List.count_cons_of_ne hstep] at hk ⊢
      exact ih (h.exec_unitOp (by omega) hi hstep hexec) htail hk hrest

/-- Settles O16: the operations before the last ENC.STEP carry the frame on by their ENC.STEPs, and do not finish it. -/
theorem interleavedOperationsLeaveTheFrame : Obligations.InterleavedOperationsLeaveTheFrame := by
  intro cmd payload is s t hs hn his hcount hrun
  obtain ⟨u, hstart, hu⟩ := exec_encStart_frameEmitted (cmd := cmd) hs hn
  rw [runOps_cons, hstart, andThen_next, runOps_append] at hrun
  obtain ⟨v, hinit, hlast⟩ := andThen_eq_next.mp hrun
  have hv := hu.runOps_unitOps his (by omega) hinit
  rw [Nat.zero_add] at hv
  obtain ⟨w, hstep, hw, hret⟩ := hv.exec_encStep
  obtain rfl : w = t := by simpa [hstep] using hlast
  have hlt : is.count .encStep < (frameBytes s.reflect cmd payload).length := by rw [frameBytes_length]; omega
  have hb := List.getElem?_eq_getElem hlt
  exact ⟨hw.tx_eq, _, hb, hret.trans (stepAnswer_of_byte hb)⟩

/-! ### The steps of an exchange -/

/-- A command's exchange after `k` of its ENC.STEPs, before it goes on to what follows the frame. -/
structure ExchangeSending (query : Bool) (s₀ : State) (cmd : Byte) (payload : List Byte) (k : Nat) (s : State) :
    Prop where
  emitted : FrameEmitted s₀ cmd payload k s
  exchange_eq : s.exchange = .sending query s₀.tx.length
  status_eq : s.enc.status = s₀.enc.status
  same : SameOutsideFenc s₀ s

theorem SameOutsideFenc.trans {u : State} (hst : SameOutsideFenc s t) (htu : SameOutsideFenc t u) :
    SameOutsideFenc s u := by
  obtain ⟨hcrc, hdec, hrx, hcfg, hin, hfault, hpartial⟩ := hst
  obtain ⟨hcrc', hdec', hrx', hcfg', hin', hfault', hpartial'⟩ := htu
  exact ⟨hcrc'.trans hcrc, hdec'.trans hdec, hrx'.trans hrx, hcfg'.trans hcfg, hin'.trans hin, hfault'.trans hfault,
    hpartial'.trans hpartial⟩

/-- ENC.STEP sets no flag, moves no exchange and leaves alone what is outside FENC and `TX`. -/
theorem encStep_frame (h : encStep s = .next t) :
    t.exchange = s.exchange ∧ t.enc.status = s.enc.status ∧ SameOutsideFenc s t := by
  obtain ⟨e, o, he, hcase⟩ := encStep_next h
  obtain ⟨-, -, -, hstatus, -⟩ := fencStep_keeps he
  obtain ⟨-, rfl⟩ | ⟨b, last, -, rfl⟩ := hcase <;> exact ⟨rfl, hstatus, rfl, rfl, rfl, rfl, rfl, rfl, rfl⟩

variable {query : Bool}

/-- A command operation with FENC idle starts its frame. -/
theorem startExchange_of_idle (query : Bool) (hs : s.enc.state = .idle) (hn : payload.length ≤ maxPayload) :
    ∃ u, startExchange query cmd payload s = .next u ∧ FrameStarted query cmd payload s u ∧
      ExchangeSending query s cmd payload 0 u := by
  have hlen : (BitVec.ofNat 8 payload.length).toNat = payload.length := by
    have h := (Fenc.started_frameInv (cmd := cmd) (flags := 0) hn).payload_length
    rw [Fenc.started_payload] at h
    exact h.symm
  refine ⟨((s.setEnc (Fenc.started cmd payload s.enc.status)).answer (.start .accepted)).setExchange
    (.sending query s.tx.length), ?_, ?_, ⟨⟨rfl, by simp, .inl ⟨by omega, Fenc.started_fencAt _ hn⟩⟩, rfl, rfl, ?_⟩⟩
  · simp [startExchange, encStart, fencStart_of_idle hs hn]
  · exact ⟨rfl, rfl, rfl, ⟨rfl, rfl, rfl, rfl, rfl, rfl, rfl⟩, rfl, rfl, rfl, hlen, lenByte_toNat hn, rfl, rfl,
      Fenc.started_payload⟩
  · exact ⟨rfl, rfl, rfl, rfl, rfl, rfl, rfl⟩

theorem ExchangeSending.exec_encStep (h : ExchangeSending query s₀ cmd payload k s) :
    ∃ t, exec .encStep s = .next t ∧ ExchangeSending query s₀ cmd payload (k + 1) t := by
  obtain ⟨hemitted, hx, hstatus, hsame⟩ := h
  obtain ⟨t, hexec, ht, -⟩ := hemitted.exec_encStep
  obtain ⟨hx', hstatus', hsame'⟩ := encStep_frame hexec
  exact ⟨t, hexec, ht, hx'.trans hx, hstatus'.trans hstatus, hsame.trans hsame'⟩

/-- A step of the exchange that does not finish the frame. -/
theorem ExchangeSending.advance_more (h : ExchangeSending query s₀ cmd payload k s) (hk : k + 1 < payload.length + 8) :
    ∃ t, advance s = .next t ∧ ExchangeSending query s₀ cmd payload (k + 1) t := by
  obtain ⟨t, hexec, ht⟩ := h.exec_encStep
  refine ⟨t, ?_, ht⟩
  rw [advance_of_sending h.exchange_eq hexec, if_neg (mt ht.emitted.idle_iff.mp (by omega))]

/-- The step that emits the frame's last byte goes on to what follows the frame. -/
theorem ExchangeSending.advance_last (h : ExchangeSending query s₀ cmd payload (payload.length + 7) s) :
    ∃ t, advance s = .next (frameSent query s₀.tx.length t) ∧
      ExchangeSending query s₀ cmd payload (payload.length + 8) t := by
  obtain ⟨t, hexec, ht⟩ := h.exec_encStep
  refine ⟨t, ?_, ht⟩
  rw [advance_of_sending h.exchange_eq hexec, if_pos (ht.emitted.idle_iff.mpr (Nat.le_refl _))]

theorem ExchangeSending.exchangeSteps_lt {j : Nat} (h : ExchangeSending query s₀ cmd payload k s)
    (hj : k + j < payload.length + 8) :
    ∃ t, exchangeSteps j s = .next t ∧ ExchangeSending query s₀ cmd payload (k + j) t := by
  induction j with
  | zero => exact ⟨s, rfl, h⟩
  | succ j ih =>
    obtain ⟨t, hsteps, ht⟩ := ih (by omega)
    obtain ⟨u, hadv, hu⟩ := ht.advance_more hj
    exact ⟨u, by rw [exchangeSteps_add, hsteps]; simp [hadv], hu⟩

/-- The whole frame, in `n + 8` steps of the exchange. -/
theorem ExchangeSending.exchangeSteps_all (h : ExchangeSending query s₀ cmd payload 0 s) :
    ∃ t, exchangeSteps (payload.length + 8) s = .next (frameSent query s₀.tx.length t) ∧
      ExchangeSending query s₀ cmd payload (payload.length + 8) t := by
  obtain ⟨t, hsteps, ht⟩ := h.exchangeSteps_lt (j := payload.length + 7) (by omega)
  rw [Nat.zero_add] at ht
  obtain ⟨u, hadv, hu⟩ := ht.advance_last
  exact ⟨u, by rw [exchangeSteps_add (payload.length + 7) 1, hsteps]; simp [hadv], hu⟩

/-- A command that reads no reply answers its frame and frees the gate. -/
theorem ExchangeSending.frameIsOut (h : ExchangeSending false s₀ cmd payload (payload.length + 8) t) :
    FrameIsOut (frameBytes s₀.reflect cmd payload) s₀ (frameSent false s₀.tx.length t) := by
  obtain ⟨hemitted, -, hstatus, hsame⟩ := h
  have htx := hemitted.tx_eq
  rw [frameBytes_take_of_le (Nat.le_refl _)] at htx
  refine ⟨htx, ?_, rfl, hemitted.idle_iff.mpr (Nat.le_refl _), hstatus, hsame⟩
  show Ret.emitted (t.tx.drop s₀.tx.length) = _
  rw [htx, List.drop_left]

end

/-- Settles O32: FRAME is the start of an exchange, whose steps are the ENC.STEPs of its frame. -/
theorem frameCommandEmitsEncode : Obligations.FrameCommandEmitsEncode := by
  intro cmd payload s hs hn
  obtain ⟨u, hstart, hstarted, hu⟩ := startExchange_of_idle (cmd := cmd) false hs hn
  obtain ⟨t, hall, ht⟩ := hu.exchangeSteps_all
  refine ⟨u, frameSent false s.tx.length t, hstart, hstarted, hall, ht.frameIsOut, fun k hk => ?_⟩
  obtain hlt | rfl := Nat.lt_or_eq_of_le hk
  · obtain ⟨v, hsteps, hv⟩ := hu.exchangeSteps_lt (j := k) (by omega)
    rw [Nat.zero_add] at hv
    exact ⟨v, hsteps, hv.emitted.tx_eq⟩
  · exact ⟨_, hall, ht.emitted.tx_eq⟩

end Sys2Proof.Machine
end

section
/-! `decode` by its cases (42_frame_decoder.md R130): an equation for each, and the buffers it accepts. -/

namespace Sys2Proof.Machine

@[simp] theorem hi8_wordOf (hi lo : Byte) : hi8 (wordOf hi lo) = hi := BitVec.extractLsb'_append_eq_left

@[simp] theorem lo8_wordOf (hi lo : Byte) : lo8 (wordOf hi lo) = lo := BitVec.extractLsb'_append_eq_right

/-- A frame as its preamble, its `LEN` byte and the rest. -/
theorem frameBytes_eq_append (r : Bool) (cmd : Byte) (payload : List Byte) :
    frameBytes r cmd payload =
      preamble ++ lenByte payload :: cmd :: (payload ++ be16 (crc16 r (body cmd payload))) := by
  simp [frameBytes]

section
variable {r : Bool} {buf rest payload : List Byte} {len cmd b : Byte}

/-- A byte that counts a payload and its command is the payload's `LEN`. -/
theorem eq_lenByte (h : len.toNat = payload.length + 1) : payload.length ≤ maxPayload ∧ len = lenByte payload := by
  have hn : payload.length ≤ maxPayload := by have := len.isLt; simp only [maxPayload]; omega
  exact ⟨hn, BitVec.eq_of_toNat_eq (by rw [lenByte_toNat hn, h])⟩

/-! ### The five shapes of a buffer and what each decodes to -/

theorem decodeFrame_of_bad_preamble (h : ∃ b ∈ buf.take 4, b ≠ preambleByte) :
    decodeFrame r buf = .malformed .preamble := by
  have hbad : (buf.take 4).any (fun b => b != preambleByte) = true := by simpa using h
  rw [decodeFrame, if_pos hbad]

theorem decodeFrame_of_getElem?_ne {i : Nat} (hi : i < 4) (hb : buf[i]? = some b) (hne : b ≠ preambleByte) :
    decodeFrame r buf = .malformed .preamble := by
  have hmem : (buf.take 4)[i]? = some b := by rw [List.getElem?_take_of_lt hi, hb]
  exact decodeFrame_of_bad_preamble ⟨b, List.mem_of_getElem? hmem, hne⟩

theorem decodeFrame_take_preamble_append {k : Nat} (hk : k < 4) (hne : b ≠ preambleByte) :
    decodeFrame r (preamble.take k ++ b :: rest) = .malformed .preamble := by
  have hlength : (preamble.take k).length = k := List.length_take_of_le hk.le
  refine decodeFrame_of_getElem?_ne hk ?_ hne
  rw [List.getElem?_append_right hlength.le, hlength, Nat.sub_self, List.getElem?_cons_zero]

theorem decodeFrame_take_preamble {k : Nat} (h : k ≤ 4) : decodeFrame r (preamble.take k) = .malformed .short := by
  interval_cases k <;> rfl

theorem decodeFrame_len_zero : decodeFrame r (preamble ++ 0 :: rest) = .malformed .length := rfl

theorem decodeFrame_len_short (hne : len ≠ 0) (h : rest.length < len.toNat + 2) :
    decodeFrame r (preamble ++ len :: rest) = .malformed .short := by
  simp [decodeFrame, preamble, show ¬ len = 0#8 from hne, h]

/-- With all its bytes there, the checksum alone decides (R140). -/
theorem decodeFrame_complete {hi lo : Byte} {t : List Byte} (h : len.toNat = payload.length + 1) :
    decodeFrame r (preamble ++ len :: cmd :: (payload ++ hi :: lo :: t)) =
      if crc16 r (len :: cmd :: payload) = wordOf hi lo then .ok cmd payload else .malformed .checksum := by
  have hne : ¬ len = 0#8 := by rintro rfl; simp at h
  simp [decodeFrame, preamble, hne, h]

/-- Enough bytes behind `LEN` are a command, a payload, two checksum bytes and what follows. -/
theorem exists_body_of_le_length (hne : len ≠ 0) (h : len.toNat + 2 ≤ rest.length) :
    ∃ cmd payload hi lo t, len.toNat = payload.length + 1 ∧ rest = cmd :: (payload ++ hi :: lo :: t) := by
  have hpos : 0 < len.toNat := Nat.pos_of_ne_zero fun h0 => hne (BitVec.eq_of_toNat_eq h0)
  obtain ⟨covered, left, rfl, hlen⟩ : ∃ covered left, rest = covered ++ left ∧ covered.length = len.toNat :=
    ⟨_, _, (List.take_append_drop len.toNat rest).symm, by rw [List.length_take]; omega⟩
  rw [List.length_append] at h
  match covered, left with
  | cmd :: payload, hi :: lo :: t => exact ⟨cmd, payload, hi, lo, t, hlen.symm, rfl⟩
  | [], _ => simp at hlen; omega
  | _, [] | _, [_] => simp at h; omega

theorem buffer_cases (buf : List Byte) :
    (∃ b ∈ buf.take 4, b ≠ preambleByte) ∨
    (∃ k, k ≤ 4 ∧ buf = preamble.take k) ∨
    (∃ rest, buf = preamble ++ 0 :: rest) ∨
    (∃ len rest, len ≠ 0 ∧ rest.length < len.toNat + 2 ∧ buf = preamble ++ len :: rest) ∨
    ∃ len cmd payload hi lo t, len.toNat = payload.length + 1 ∧
      buf = preamble ++ len :: cmd :: (payload ++ hi :: lo :: t) := by
  by_cases hgood : ∀ b ∈ buf.take 4, b = preambleByte
  · have htake : buf.take 4 = preamble.take buf.length := by
      rw [List.eq_replicate_of_mem hgood, List.length_take, Nat.min_comm, ← List.take_replicate]
      rfl
    cases hdrop : buf.drop 4 with
    | nil =>
      have hlength := List.drop_eq_nil_iff.mp hdrop
      exact .inr (.inl ⟨buf.length, hlength, by rw [← htake, List.take_of_length_le hlength]⟩)
    | cons len rest =>
      have hlength : 4 ≤ buf.length := by
        have := congrArg List.length hdrop
        rw [List.length_drop, List.length_cons] at this
        omega
      obtain rfl : buf = preamble ++ len :: rest := by
        rw [← List.take_append_drop 4 buf, htake, hdrop, List.take_of_length_le hlength]
      by_cases hne : len = 0
      · exact .inr (.inr (.inl ⟨rest, by rw [hne]⟩))
      · rcases Nat.lt_or_ge rest.length (len.toNat + 2) with hlt | hge
        · exact .inr (.inr (.inr (.inl ⟨len, rest, hne, hlt, rfl⟩)))
        · obtain ⟨cmd, payload, hi, lo, t, hlen, rfl⟩ := exists_body_of_le_length hne hge
          exact .inr (.inr (.inr (.inr ⟨len, cmd, payload, hi, lo, t, hlen, rfl⟩)))
  · push Not at hgood
    exact .inl hgood

/-- What `decode` accepts is a frame with anything after it (R137). -/
theorem decodeFrame_eq_ok_iff :
    decodeFrame r buf = .ok cmd payload ↔
      payload.length ≤ maxPayload ∧ ∃ t, buf = frameBytes r cmd payload ++ t := by
  refine ⟨fun h => ?_, ?_⟩
  · obtain hbad | ⟨k, hk, rfl⟩ | ⟨rest, rfl⟩ | ⟨len, rest, hne, hlt, rfl⟩ |
      ⟨len, c, p, hi, lo, t, hlen, rfl⟩ := buffer_cases buf
    · rw [decodeFrame_of_bad_preamble hbad] at h; cases h
    · rw [decodeFrame_take_preamble hk] at h; cases h
    · rw [decodeFrame_len_zero] at h; cases h
    · rw [decodeFrame_len_short hne hlt] at h; cases h
    · rw [decodeFrame_complete hlen] at h
      split at h
      · next hc =>
        cases h
        obtain ⟨hn, rfl⟩ := eq_lenByte hlen
        exact ⟨hn, t, by simp [frameBytes_eq_append, body, hc, be16]⟩
      · cases h
  · rintro ⟨hn, t, rfl⟩
    exact decodeFrame_frameBytes_append r cmd t hn

end

/-- Settles O26: a frame is long enough, and its checksum is the one computed again. -/
theorem decodeOfEncode : Obligations.DecodeOfEncode := fun r cmd _ t hn => decodeFrame_frameBytes_append r cmd t hn

/-- Settles O28: what decodes to Ok is a frame and more bytes, and so it is with still more. -/
theorem trailingBytesAreIgnored : Obligations.TrailingBytesAreIgnored := by
  intro r frame t cmd payload h
  obtain ⟨hn, u, rfl⟩ := decodeFrame_eq_ok_iff.mp h
  exact decodeFrame_eq_ok_iff.mpr ⟨hn, u ++ t, List.append_assoc ..⟩

/-- Settles O29, which is the first and the third of the decoder's cases. -/
theorem preambleAndLengthAreCheckedFirst : Obligations.PreambleAndLengthAreCheckedFirst :=
  ⟨fun _ _ _ _ => decodeFrame_of_getElem?_ne, fun _ _ => decodeFrame_len_zero⟩

/-- Settles O30, which is the last of the decoder's cases. -/
theorem checksumDecides : Obligations.ChecksumDecides := by
  intro r len cmd hi lo payload t hlen
  have hdec := decodeFrame_complete (r := r) (cmd := cmd) (hi := hi) (lo := lo) (t := t) hlen
  exact ⟨fun hc => hdec.trans (if_pos hc), fun hc => hdec.trans (if_neg hc)⟩

/-- Settles O27: the cut leaves a part of the preamble, or too few bytes behind `LEN`. -/
theorem truncatedFrameIsShort : Obligations.TruncatedFrameIsShort := by
  intro r cmd payload k hn hk
  rw [frameBytes_length] at hk
  rw [frameBytes_eq_append]
  by_cases hpre : k ≤ 4
  · rw [List.take_append_of_le_length hpre]
    exact decodeFrame_take_preamble hpre
  · obtain ⟨j, rfl⟩ : ∃ j, k = 4 + (j + 1) := ⟨k - 5, by omega⟩
    rw [show 4 = preamble.length from rfl, List.take_length_add_append, List.take_succ_cons]
    exact decodeFrame_len_short (lenByte_ne_zero hn) (by rw [List.length_take, lenByte_toNat hn]; omega)

end Sys2Proof.Machine
end

section
/-! A frame with one byte changed (42_frame_decoder.md R151). -/

namespace Sys2Proof.Machine

section
variable {r : Bool} {cmd v old : Byte} {payload : List Byte}

theorem frameBytes_set_len : (frameBytes r cmd payload).set 4 v =
    preamble ++ v :: cmd :: (payload ++ be16 (crc16 r (body cmd payload))) := by
  rw [frameBytes_eq_append]; rfl

theorem frameBytes_set_add_five (j : Nat) : (frameBytes r cmd payload).set (5 + j) v =
    preamble ++ lenByte payload :: (cmd :: payload ++ be16 (crc16 r (body cmd payload))).set j v := by
  rw [frameBytes_eq_append, Nat.add_comm]; rfl

theorem frameBytes_getElem?_add_five (j : Nat) : (frameBytes r cmd payload)[5 + j]? =
    (cmd :: payload ++ be16 (crc16 r (body cmd payload)))[j]? := by
  rw [frameBytes_eq_append, Nat.add_comm]; rfl

theorem getD_add_six_preamble_append (len c : Byte) (rest : List Byte) (i : Nat) :
    (preamble ++ len :: c :: rest).getD (6 + i) 0 = rest.getD i 0 := by
  rw [Nat.add_comm]; rfl

/-- Row 4 of R151: a smaller `LEN` ends the payload early, and the two bytes found there decide. -/
theorem decodeFrame_len_smaller (hpos : 0 < v.toNat) (hlt : v.toNat < payload.length + 1) :
    decodeFrame r ((frameBytes r cmd payload).set 4 v) =
      if crc16 r (v :: ((frameBytes r cmd payload).drop 5).take v.toNat) =
          wordOf ((frameBytes r cmd payload).getD (5 + v.toNat) 0) ((frameBytes r cmd payload).getD (6 + v.toNat) 0)
      then .ok cmd (payload.take (v.toNat - 1)) else .malformed .checksum := by
  have hne : v ≠ 0 := by rintro rfl; simp at hpos
  obtain ⟨c, shorter, hi, lo, t, hlen, hrest⟩ := exists_body_of_le_length
    (rest := cmd :: (payload ++ be16 (crc16 r (body cmd payload)))) hne (by simp [be16]; omega)
  obtain ⟨rfl, hshorter⟩ := List.cons.inj hrest
  have hpayload : payload.take (v.toNat - 1) = shorter := by
    have htake := congrArg (List.take shorter.length) hshorter
    rwa [List.take_left, List.take_append_of_le_length (by omega), Nat.eq_sub_of_add_eq hlen.symm] at htake
  have hframe : frameBytes r cmd payload = preamble ++ lenByte payload :: cmd :: (shorter ++ hi :: lo :: t) := by
    rw [frameBytes_eq_append, hshorter]
  have hcovered : ((frameBytes r cmd payload).drop 5).take v.toNat = cmd :: shorter := by
    rw [hframe, hlen, show 5 = preamble.length + 1 from rfl]
    simp
  have hhi : (frameBytes r cmd payload).getD (5 + v.toNat) 0 = hi := by
    rw [hframe, show 5 + v.toNat = 6 + shorter.length by omega, getD_add_six_preamble_append]
    simp
  have hlo : (frameBytes r cmd payload).getD (6 + v.toNat) 0 = lo := by
    rw [hframe, hlen, getD_add_six_preamble_append]
    simp
  rw [frameBytes_set_len, hshorter, decodeFrame_complete hlen, hpayload, hcovered, hhi, hlo]

/-- Rows 5 and 6 of R151: another command or payload byte has another CRC. -/
theorem decodeFrame_set_body {j : Nat} (hn : payload.length ≤ maxPayload) (hold : (cmd :: payload)[j]? = some old)
    (hv : v ≠ old) : decodeFrame r ((frameBytes r cmd payload).set (5 + j) v) = .malformed .checksum := by
  obtain ⟨hj, hold⟩ := List.getElem?_eq_some_iff.mp hold
  obtain ⟨a, z, hbody, -, hset⟩ := List.exists_of_set (a' := v) hj
  rw [hold] at hbody
  obtain ⟨c, p, hmutant, hlength⟩ : ∃ c p, (cmd :: payload).set j v = c :: p ∧ p.length = payload.length := by
    cases j with
    | zero => exact ⟨_, _, rfl, rfl⟩
    | succ j => exact ⟨_, _, rfl, List.length_set⟩
  have hcrc : crc16 r (lenByte payload :: c :: p) ≠ crc16 r (body cmd payload) := by
    rw [body, hbody, ← hmutant, hset]
    exact oneByteChangesTheCrc r (lenByte payload :: a) z v old hv
  rw [frameBytes_set_add_five, List.set_append_left _ _ hj, hmutant, be16, List.cons_append,
    decodeFrame_complete (by rw [lenByte_toNat hn, hlength]), wordOf_hi8_lo8, if_neg hcrc]

/-- A checksum with one byte changed is another number. -/
theorem be16_set {w : Word} {j : Nat} (hold : (be16 w)[j]? = some old) (hv : v ≠ old) :
    ∃ hi lo, (be16 w).set j v = [hi, lo] ∧ w ≠ wordOf hi lo := by
  match j with
  | 0 =>
    cases hold
    exact ⟨v, lo8 w, rfl, fun h => hv ((congrArg hi8 h).trans (hi8_wordOf ..)).symm⟩
  | 1 =>
    cases hold
    exact ⟨hi8 w, v, rfl, fun h => hv ((congrArg lo8 h).trans (lo8_wordOf ..)).symm⟩
  | j + 2 => cases hold

/-- Row 7 of R151. -/
theorem decodeFrame_set_checksum {j : Nat} (hn : payload.length ≤ maxPayload)
    (hold : (be16 (crc16 r (body cmd payload)))[j]? = some old) (hv : v ≠ old) :
    decodeFrame r ((frameBytes r cmd payload).set (5 + ((cmd :: payload).length + j)) v) = .malformed .checksum := by
  obtain ⟨hi, lo, hmutant, hne⟩ := be16_set hold hv
  rw [frameBytes_set_add_five, List.set_append_right _ _ (Nat.le_add_right ..), Nat.add_sub_cancel_left, hmutant,
    List.cons_append, decodeFrame_complete (lenByte_toNat hn)]
  exact if_neg hne

theorem decodeFrame_set_of_five_le {i : Nat} (hn : payload.length ≤ maxPayload) (hi : 5 ≤ i)
    (hold : (frameBytes r cmd payload)[i]? = some old) (hv : v ≠ old) :
    decodeFrame r ((frameBytes r cmd payload).set i v) = .malformed .checksum := by
  obtain ⟨j, rfl⟩ := Nat.exists_eq_add_of_le hi
  rw [frameBytes_getElem?_add_five] at hold
  rcases Nat.lt_or_ge j (cmd :: payload).length with hj | hj
  · rw [List.getElem?_append_left hj] at hold
    exact decodeFrame_set_body hn hold hv
  · obtain ⟨k, rfl⟩ := Nat.exists_eq_add_of_le hj
    rw [List.getElem?_append_right hj, Nat.add_sub_cancel_left] at hold
    exact decodeFrame_set_checksum hn hold hv

end

/-- Settles O31: each row is the case of the decoder that the changed buffer falls under. -/
theorem oneByteMutationTable : Obligations.OneByteMutationTable := by
  refine ⟨fun r cmd payload i old v hn hold hv => ⟨fun hi => ?_, ?_, ?_, ?_, fun hi => ?_⟩, by decide +kernel,
    by decide +kernel⟩
  · rw [frameBytes_getElem?_preamble r cmd payload hi] at hold
    cases hold
    exact decodeFrame_of_getElem?_ne hi (List.getElem?_set_self (by rw [frameBytes_length]; omega)) hv
  · rintro rfl rfl
    rw [frameBytes_set_len]
    exact decodeFrame_len_zero
  · rintro rfl hlt
    have hne : v ≠ 0 := by rintro rfl; simp at hlt
    rw [frameBytes_set_len]
    exact decodeFrame_len_short hne (by simp [be16]; omega)
  · rintro rfl hpos hlt
    have hdec := decodeFrame_len_smaller (r := r) (cmd := cmd) hpos hlt
    exact ⟨fun hc => hdec.trans (if_pos hc), fun hc => hdec.trans (if_neg hc)⟩
  · exact decodeFrame_set_of_five_le hn hi hold hv

end Sys2Proof.Machine
end

section
/-! The operations of FDEC as equations (42_frame_decoder.md R131 to R134). -/

namespace Sys2Proof.Machine

section
variable {b : Byte} {d : Fdec} {s : State}

@[simp] theorem exec_decStart (s : State) :
    exec .decStart s = .next { s with dec := fdecStart s.dec, ret := .nothing } := rfl

@[simp] theorem exec_decEnd (s : State) :
    exec .decEnd s = .next { s with dec := fdecEnd s.dec, ret := .nothing } := rfl

/-- DEC.PUSH writes what FDEC comes to, and takes one byte of `RX`. -/
theorem exec_decPush_of_fdecPush (h : fdecPush s.reflect b s.dec = .ok d) :
    exec (.decPush b) s = .next { s with dec := d, rx := s.rx.tail, ret := .nothing } := by
  simp only [exec, execDecPush, decPush, h]
  rfl

/-- DEC.RESULT writes its answer alone. -/
theorem exec_decResult_of_fdecResult {v : Option Decoded} (h : fdecResult s.dec = .ok v) :
    exec .decResult s = .next { s with ret := v.elim .pending .decoded } := by
  cases v <;> simp only [exec, execDecResult, decResult, h] <;> rfl

theorem fdecEnd_of_pending (hok : d.state ≠ .ok) (herr : d.state ≠ .err) : fdecEnd d = raiseMalformed .short d := by
  rcases fdecEnd_cases d with ⟨h, -⟩ | ⟨-, -, h⟩
  · exact absurd h (not_or.mpr ⟨hok, herr⟩)
  · exact h

theorem fdecEnd_of_verdict (h : d.state = .ok ∨ d.state = .err) : fdecEnd d = d := by
  rcases fdecEnd_cases d with ⟨-, e⟩ | ⟨hok, herr, -⟩
  · exact e
  · exact absurd h (not_or.mpr ⟨hok, herr⟩)

theorem fdecResult_of_ok {payload : List Byte} (hs : d.state = .ok) (h : d.payRx.readFrom 0 d.n.toNat = some payload) :
    fdecResult d = .ok (some (.ok d.cmd payload)) := by
  simp only [fdecResult, hs, h]

theorem fdecResult_of_err (hs : d.state = .err) : fdecResult d = .ok (some (.malformed d.cause)) := by
  simp only [fdecResult, hs]

theorem fdecResult_of_pending (hok : d.state ≠ .ok) (herr : d.state ≠ .err) : fdecResult d = .ok none := by
  unfold fdecResult
  split
  · exact absurd ‹_› hok
  · exact absurd ‹_› herr
  all_goals rfl

end

/-- Settles O18: `crcInitValue` is 0xFFFF. -/
theorem decStartEffect : Obligations.DecStartEffect := exec_decStart

/-- Settles O21: DEC.END raises SHORT before a verdict. -/
theorem decEndEffect : Obligations.DecEndEffect := by
  refine fun s => ⟨fun hok herr => ?_, fun h => ?_⟩
  · rw [exec_decEnd, fdecEnd_of_pending hok herr]
    rfl
  · rw [exec_decEnd, fdecEnd_of_verdict h]

/-- Settles O22: in `D_OK` the payload is read from `PAY_RX`, where its bytes are. -/
theorem decResultReturnsTheVerdict : Obligations.DecResultReturnsTheVerdict := by
  refine fun s => ⟨fun payload hok hn hread => ?_, fun herr => ?_, fun hok herr => ?_⟩
  · have hall : s.dec.payRx.readFrom 0 s.dec.n.toNat = some payload :=
      Memory.readFrom_eq_some.mpr ⟨hn, fun i hi => by rw [Nat.zero_add]; exact hread i (by omega)⟩
    exact exec_decResult_of_fdecResult (fdecResult_of_ok hok hall)
  · exact exec_decResult_of_fdecResult (fdecResult_of_err herr)
  · exact exec_decResult_of_fdecResult (fdecResult_of_pending hok herr)

/-- Settles O19: in each state, FDEC's own push; `RX` loses one byte. -/
theorem decPushEffects : Obligations.DecPushEffects := by
  refine fun b s => ⟨s.rx.tail, fun hs hb => ?_, fun hs hb hi => ?_, fun hs hb hi => ?_, fun hs hb => ?_,
    fun hs hb => ?_, fun hs => ?_, fun hs hi => ⟨s.dec.payRx.write s.dec.idx.toNat b, Memory.read_write_same ..,
      fun i hne => Memory.read_write_other _ _ hne, fun hlast => ?_, fun hmore => ?_⟩,
    fun hs => ?_, fun hs hc => ?_, fun hs hc => ?_, fun hs => ?_⟩
  all_goals refine exec_decPush_of_fdecPush ?_
  · simp only [fdecPush, hs]
    exact if_pos hb
  · simp only [fdecPush, hs]
    exact (if_neg (not_not_intro hb)).trans (if_pos hi)
  · simp only [fdecPush, hs]
    exact (if_neg (not_not_intro hb)).trans (if_neg hi)
  · simp only [fdecPush, hs]
    exact if_pos hb
  · simp only [fdecPush, hs]
    exact if_neg hb
  · simp only [fdecPush, hs]
  · simp only [fdecPush, hs]
    exact (if_pos (Nat.lt_succ_of_le hi)).trans (if_pos hlast)
  · simp only [fdecPush, hs]
    exact (if_pos (Nat.lt_succ_of_le hi)).trans (if_neg hmore)
  · simp only [fdecPush, hs]
    rfl
  · simp only [fdecPush, hs, xor_crcXorOut]
    exact if_pos hc
  · simp only [fdecPush, hs, xor_crcXorOut]
    exact if_neg hc
  · rcases hs with hs | hs <;> simp only [fdecPush, hs]

end Sys2Proof.Machine
end

section
/-! FDEC along a buffer (42_frame_decoder.md R135): what its registers say about the bytes pushed since DEC.START, and
that the verdict they come to is `decode`. -/

namespace Sys2Proof.Machine

/-- The bytes pushed are the preamble, `LEN`, `CMD`, the first `k` bytes of `PAY_RX` and then `last`, and `d_crc` covers
them from `LEN` to the payload. -/
def Fdec.pushedBody (r : Bool) (k : Nat) (last bs : List Byte) (d : Fdec) : Prop :=
  ∃ payload, d.payRx.readFrom 0 k = some payload ∧ d.crc = crc16 r (d.len :: d.cmd :: payload) ∧
    bs = preamble ++ d.len :: d.cmd :: (payload ++ last)

/-- FDEC may stand so when `bs` is what was pushed since DEC.START: before a verdict the registers hold what was read of
the frame, and a verdict is `decode` of `bs` with anything after it. -/
def Fdec.pushed (r : Bool) (bs : List Byte) (d : Fdec) : Prop :=
  match d.state with
  | .pre => d.idx.toNat ≤ 3 ∧ d.crc = crc16 r [] ∧ bs = preamble.take d.idx.toNat
  | .len => d.crc = crc16 r [] ∧ bs = preamble
  | .cmd => d.lenInv ∧ d.crc = crc16 r [d.len] ∧ bs = preamble ++ [d.len]
  | .pay => d.lenInv ∧ d.idx.toNat < d.n.toNat ∧ d.pushedBody r d.idx.toNat [] bs
  | .crcHi => d.lenInv ∧ d.pushedBody r d.n.toNat [] bs
  | .crcLo => d.lenInv ∧ d.pushedBody r d.n.toNat [hi8 d.rxcrc] bs
  | .ok | .err => ∀ rest, fdecResult d = .ok (some (decodeFrame r (bs ++ rest)))

section
variable {r : Bool} {bs : List Byte} {d : Fdec} {b : Byte} {k : Nat} {last : List Byte}

theorem Fdec.pushed_iff_of_verdict (hst : d.state = .ok ∨ d.state = .err) :
    d.pushed r bs ↔ ∀ rest, fdecResult d = .ok (some (decodeFrame r (bs ++ rest))) := by
  rcases hst with hst | hst <;> simp only [Fdec.pushed, hst]

theorem Fdec.lenInv.len_ne_zero (h : d.lenInv) : d.len ≠ 0 := by
  obtain ⟨-, hlen⟩ := h
  intro h0
  rw [h0] at hlen
  exact absurd hlen (by simp)

/-! ### Before a verdict -/

theorem Fdec.pushedBody.decodeFrame_short (h : d.pushedBody r k last bs) (hlen : d.lenInv)
    (hk : k + last.length < d.n.toNat + 2) : decodeFrame r bs = .malformed .short := by
  obtain ⟨payload, hread, -, rfl⟩ := h
  obtain ⟨hlength, -⟩ := Memory.readFrom_eq_some.mp hread
  obtain ⟨-, hn⟩ := id hlen
  refine decodeFrame_len_short hlen.len_ne_zero ?_
  rw [List.length_cons, List.length_append, hn]
  omega

theorem Fdec.pushed.decodeFrame_short (h : d.pushed r bs) (hok : d.state ≠ .ok) (herr : d.state ≠ .err) :
    decodeFrame r bs = .malformed .short := by
  unfold Fdec.pushed at h
  split at h
  · obtain ⟨hi, -, rfl⟩ := h
    exact decodeFrame_take_preamble (by omega)
  · obtain ⟨-, rfl⟩ := h
    exact decodeFrame_take_preamble (Nat.le_refl 4)
  · obtain ⟨hlen, -, rfl⟩ := h
    exact decodeFrame_len_short hlen.len_ne_zero (by simp)
  · obtain ⟨hlen, hlt, hbody⟩ := h
    exact hbody.decodeFrame_short hlen (by simp; omega)
  · obtain ⟨hlen, hbody⟩ := h
    exact hbody.decodeFrame_short hlen (by simp)
  · obtain ⟨hlen, hbody⟩ := h
    exact hbody.decodeFrame_short hlen (by simp)
  · exact absurd ‹_› hok
  · exact absurd ‹_› herr

/-! ### One push -/

theorem take_preamble_succ (h : k < 4) : preamble.take (k + 1) = preamble.take k ++ [preambleByte] := by
  interval_cases k <;> rfl

theorem fdecStart_pushed (r : Bool) (d : Fdec) : (fdecStart d).pushed r [] :=
  ⟨Nat.zero_le _, (crc16_nil r).symm, rfl⟩

/-- A payload byte stored, added to the CRC and counted. -/
theorem Fdec.pushedBody.write (b : Byte) (h : d.pushedBody r k [] bs) :
    Fdec.pushedBody r (k + 1) [] (bs ++ [b])
      { d with payRx := d.payRx.write k b, crc := crcByte r d.crc b } := by
  obtain ⟨payload, hread, hcrc, rfl⟩ := h
  have hread' := Memory.readFrom_write_end b hread
  rw [Nat.zero_add] at hread'
  refine ⟨payload ++ [b], hread', ?_, by simp⟩
  rw [hcrc, ← crc16_concat]
  rfl

/-- The second checksum byte decides, whatever follows it (R140). -/
theorem Fdec.pushedBody.decodeFrame_append {hi lo : Byte} (h : d.pushedBody r d.n.toNat [hi] bs) (hlen : d.lenInv) :
    ∃ payload, d.payRx.readFrom 0 d.n.toNat = some payload ∧ ∀ rest,
      decodeFrame r (bs ++ [lo] ++ rest) =
        if d.crc = wordOf hi lo then .ok d.cmd payload else .malformed .checksum := by
  obtain ⟨payload, hread, hcrc, rfl⟩ := h
  obtain ⟨hlength, -⟩ := Memory.readFrom_eq_some.mp hread
  obtain ⟨-, hlen⟩ := hlen
  refine ⟨payload, hread, fun rest => ?_⟩
  rw [hcrc, ← decodeFrame_complete (t := rest) (by rw [hlen, hlength])]
  simp

/-- No run that begins with DEC.START writes outside `PAY_RX` (20_memory.md R47). -/
theorem fdecPush_ok (h : d.pushed r bs) (b : Byte) : ∃ d', fdecPush r b d = .ok d' := by
  cases hpush : fdecPush r b d with
  | ok d' => exact ⟨d', rfl⟩
  | error f =>
    obtain ⟨-, hst, hidx⟩ := fdecPush_eq_error.mp hpush
    simp only [Fdec.pushed, hst] at h
    obtain ⟨⟨hn, -⟩, hlt, -⟩ := h
    simp only [maxPayload] at hn
    simp only [bufferSize] at hidx
    omega

/-- One more byte pushed, by the rows of 42_frame_decoder.md R136. -/
theorem fdecPush_pushed {d' : Fdec} (h : d.pushed r bs) (hpush : fdecPush r b d = .ok d') :
    d'.pushed r (bs ++ [b]) := by
  rcases fdecPush_cases hpush with ⟨hst, hb, rfl⟩ | ⟨hst, rfl, hi, rfl⟩ | ⟨hst, rfl, hi, rfl⟩ | ⟨hst, rfl, rfl⟩ |
    ⟨hst, hb, rfl⟩ | ⟨hst, rfl⟩ | ⟨hst, -, hi, rfl⟩ | ⟨hst, -, hi, rfl⟩ | ⟨hst, rfl⟩ | ⟨hst, hc, rfl⟩ | ⟨hst, hc, rfl⟩ |
    ⟨hst, rfl⟩
  · simp only [Fdec.pushed, hst] at h
    obtain ⟨hi, -, rfl⟩ := h
    intro rest
    rw [fdecResult_of_err rfl, List.append_assoc, List.singleton_append,
      decodeFrame_take_preamble_append (by omega) hb]
    rfl
  · simp only [Fdec.pushed, hst] at h
    obtain ⟨-, hcrc, rfl⟩ := h
    exact ⟨hcrc, by rw [hi]; rfl⟩
  · simp only [Fdec.pushed, hst] at h ⊢
    obtain ⟨hle, hcrc, rfl⟩ := h
    have hne : d.idx.toNat ≠ 3 := fun h3 => hi (BitVec.eq_of_toNat_eq h3)
    rw [byte_toNat_succ (by omega), take_preamble_succ (by omega)]
    exact ⟨by omega, hcrc, rfl⟩
  · simp only [Fdec.pushed, hst] at h
    obtain ⟨-, rfl⟩ := h
    exact fun rest => by rw [fdecResult_of_err rfl, List.append_assoc]; rfl
  · simp only [Fdec.pushed, hst] at h
    obtain ⟨hcrc, rfl⟩ := h
    exact ⟨lenInv_of_len_ne_zero hb rfl rfl, by rw [hcrc, ← crc16_concat]; rfl, rfl⟩
  · simp only [Fdec.pushed, hst] at h
    obtain ⟨hlen, hcrc, rfl⟩ := h
    have hbody : Fdec.pushedBody r 0 [] (preamble ++ [d.len] ++ [b])
        { d with cmd := b, crc := crcByte r d.crc b, idx := 0, state := if d.n = 0 then .crcHi else .pay } :=
      ⟨[], rfl, by rw [hcrc, ← crc16_concat]; rfl, rfl⟩
    by_cases hn : d.n = 0
    · simp only [if_pos hn] at hbody ⊢
      exact ⟨hlen, by rw [hn]; exact hbody⟩
    · simp only [if_neg hn] at hbody ⊢
      exact ⟨hlen, Nat.pos_of_ne_zero fun h0 => hn (BitVec.eq_of_toNat_eq h0), hbody⟩
  · simp only [Fdec.pushed, hst] at h
    obtain ⟨hlen, hlt, hbody⟩ := h
    refine ⟨hlen, ?_⟩
    rw [← (byte_eq_sub_one_iff hlt).mp hi]
    exact hbody.write b
  · simp only [Fdec.pushed, hst] at h ⊢
    obtain ⟨hlen, hlt, hbody⟩ := h
    have hmore := mt (byte_eq_sub_one_iff hlt).mpr hi
    rw [byte_toNat_succ (by omega)]
    exact ⟨hlen, by omega, hbody.write b⟩
  · simp only [Fdec.pushed, hst] at h
    obtain ⟨hlen, payload, hread, hcrc, rfl⟩ := h
    exact ⟨hlen, payload, hread, hcrc, by simp⟩
  · simp only [Fdec.pushed, hst] at h
    obtain ⟨hlen, hbody⟩ := h
    obtain ⟨payload, hread, hdec⟩ := hbody.decodeFrame_append (lo := b) hlen
    intro rest
    rw [hdec, if_pos (by rwa [xor_crcXorOut] at hc)]
    exact fdecResult_of_ok rfl hread
  · simp only [Fdec.pushed, hst] at h
    obtain ⟨hlen, hbody⟩ := h
    obtain ⟨payload, -, hdec⟩ := hbody.decodeFrame_append (lo := b) hlen
    intro rest
    rw [hdec, if_neg (by rwa [xor_crcXorOut] at hc)]
    exact fdecResult_of_err rfl
  · rw [Fdec.pushed_iff_of_verdict hst] at h ⊢
    exact fun rest => by rw [List.append_assoc]; exact h _

/-! ### The verdict -/

/-- DEC.END makes SHORT of a buffer without a verdict, and so does `decode`. -/
theorem Fdec.pushed.fdecResult_fdecEnd (h : d.pushed r bs) :
    fdecResult (fdecEnd d) = .ok (some (decodeFrame r bs)) := by
  rcases fdecEnd_cases d with ⟨hst, e⟩ | ⟨hok, herr, e⟩ <;> rw [e]
  · simpa using (Fdec.pushed_iff_of_verdict hst).mp h []
  · rw [h.decodeFrame_short hok herr]
    exact fdecResult_of_err rfl

end

/-! ### Runs -/

section
variable {s : State} {bs : List Byte}

theorem runOps_decPush (h : s.dec.pushed s.reflect bs) (buf : List Byte) :
    ∃ d rx ret, runOps (buf.map .decPush) s = .next { s with dec := d, rx := rx, ret := ret } ∧
      d.pushed s.reflect (bs ++ buf) := by
  induction buf generalizing s bs with
  | nil => exact ⟨s.dec, s.rx, s.ret, rfl, by rwa [List.append_nil]⟩
  | cons b buf ih =>
    obtain ⟨d, hpush⟩ := fdecPush_ok h b
    obtain ⟨d', rx, ret, hrun, hd'⟩ :=
      ih (s := { s with dec := d, rx := s.rx.tail, ret := .nothing }) (fdecPush_pushed h hpush)
    refine ⟨d', rx, ret, ?_, by rwa [List.append_assoc] at hd'⟩
    rw [List.map_cons, runOps_cons, exec_decPush_of_fdecPush hpush, andThen_next, hrun]

/-- DEC.START and the pushes of a buffer complete in every state, and FDEC stands as the buffer says. -/
theorem runOps_decStart_decPush (buf : List Byte) (s : State) :
    ∃ d rx ret, runOps (.decStart :: buf.map .decPush) s = .next { s with dec := d, rx := rx, ret := ret } ∧
      d.pushed s.reflect buf := by
  rw [runOps_cons, exec_decStart, andThen_next]
  exact runOps_decPush (s := { s with dec := fdecStart s.dec, ret := .nothing }) (fdecStart_pushed s.reflect s.dec) buf

end

/-- Settles O24: DEC.END brings the verdict on what was pushed, and DEC.RESULT answers it. -/
theorem decoderAgreesWithDecode : Obligations.DecoderAgreesWithDecode := by
  intro buf s
  obtain ⟨d, rx, ret, hrun, hd⟩ := runOps_decStart_decPush buf s
  have hresult := exec_decResult_of_fdecResult (s := { s with dec := fdecEnd d, rx := rx, ret := .nothing })
    hd.fdecResult_fdecEnd
  refine ⟨{ s with dec := fdecEnd d, rx := rx, ret := .decoded (decodeFrame s.reflect buf) }, ?_, rfl, rfl, rfl,
    rfl, rfl, rfl, rfl, rfl, rfl⟩
  rw [← List.cons_append, runOps_append, hrun]
  simp [hresult]

/-- Settles O25: the verdict on the first bytes is already that on any buffer that begins with them. -/
theorem earlyVerdictIsDecodeOfTheWhole : Obligations.EarlyVerdictIsDecodeOfTheWhole := by
  intro pre rest s t hrun hst
  obtain ⟨d, rx, ret, hrun', hd⟩ := runOps_decStart_decPush pre s
  cases hrun'.symm.trans hrun
  exact ⟨_, exec_decResult_of_fdecResult ((Fdec.pushed_iff_of_verdict hst).mp hd rest), rfl⟩

end Sys2Proof.Machine
end

section
/-! The set commands (43_command_frames.md R161 to R163): each starts the frame of its own command byte and payload and reads
no reply. -/

namespace Sys2Proof.Machine

section
variable {s : State}

/-- A command that reads no reply, with FENC idle: its start, and its whole frame in `n + 8` steps of its exchange. -/
theorem startExchange_frameIsOut (cmd : Byte) {payload : List Byte} (hs : s.enc.state = .idle)
    (hn : payload.length ≤ maxPayload) :
    ∃ u t, startExchange false cmd payload s = .next u ∧ FrameStarted false cmd payload s u ∧
      exchangeSteps (payload.length + 8) u = .next t ∧ FrameIsOut (frameBytes s.reflect cmd payload) s t := by
  obtain ⟨u, hstart, hstarted, hu⟩ := startExchange_of_idle (cmd := cmd) false hs hn
  obtain ⟨t, hall, ht⟩ := hu.exchangeSteps_all
  exact ⟨u, _, hstart, hstarted, hall, ht.frameIsOut⟩

theorem exec_mode_of_lt {id : Byte} (h : maxModeId < id) : exec (.mode id) s = .refused .modeIdOutOfDomain :=
  if_neg (BitVec.not_le.mpr h)

theorem startExchange_ne_refused (query : Bool) (cmd : Byte) (payload : List Byte) (why : Refusal) :
    startExchange query cmd payload s ≠ .refused why := by
  obtain ⟨-, e⟩ | ⟨-, e⟩ := startExchange_cases query cmd payload s <;> simp [e]

end

/-- Settles O33: the payloads have 1, 8 and 2 bytes, and the bytes written out are those of `frameBytes`. -/
theorem setCommandsEmitTheirFrames : Obligations.SetCommandsEmitTheirFrames := by
  refine fun s hs => ⟨fun on => ?_, fun hz => ?_, fun id hid => ?_⟩
  · exact startExchange_frameIsOut opTx (payload := txctlPayload on) hs (by simp [txctlPayload, maxPayload])
  · exact startExchange_frameIsOut opFreq (payload := freqPayload hz) hs (by simp [freqPayload, be32, maxPayload])
  · rw [exec_mode_of_le hid]
    exact startExchange_frameIsOut opMode (payload := modePayload id) hs (by simp [modePayload, maxPayload])

/-- Settles O37: the builder tests its domain first, and a start is never a refusal of the machine. -/
theorem modeRefusesIdentifiersAboveEight : Obligations.ModeRefusesIdentifiersAboveEight := by
  refine fun id s => ⟨fun h => ?_, exec_mode_of_lt⟩
  by_contra hid
  rw [exec_mode_of_le (Nat.le_of_not_lt hid)] at h
  exact startExchange_ne_refused _ _ _ _ h

end Sys2Proof.Machine
end

section
/-! The status reply (43_command_frames.md R165, R166): the big-endian number, and the two outcomes of the parse. -/

namespace Sys2Proof.Machine

/-- Each byte shifts the number so far up by one byte. -/
theorem foldl_beNat (acc : Nat) (bs : List Byte) :
    bs.foldl (fun acc b => acc * 256 + b.toNat) acc = acc * 256 ^ bs.length +
      ((List.range bs.length).map fun k => (bs.getD k 0).toNat * 256 ^ (bs.length - 1 - k)).sum := by
  induction bs generalizing acc with
  | nil => simp
  | cons b bs ih =>
    have htail : ∀ k, bs.length + 1 - 1 - (k + 1) = bs.length - 1 - k := fun k => by omega
    rw [List.foldl_cons, ih, List.length_cons, List.range_succ_eq_map, List.map_cons, List.sum_cons, List.map_map]
    simp only [Function.comp_def, Nat.succ_eq_add_one, htail, List.getD_cons_succ, List.getD_cons_zero]
    rw [Nat.add_sub_cancel, Nat.sub_zero]
    ring

/-- The big-endian number of R165, byte by byte. -/
theorem beNat_eq_sum (bs : List Byte) :
    beNat bs = ((List.range bs.length).map fun k => (bs.getD k 0).toNat * 256 ^ (bs.length - 1 - k)).sum := by
  rw [beNat, foldl_beNat, Nat.zero_mul, Nat.zero_add]

section
variable {cfg : Config} {cmd : Byte} {payload : List Byte}

theorem parseStatus_of_short (h : payload.length ≤ cfg.statusModeOffset ∨
    payload.length < cfg.statusFreqOffset + cfg.statusFreqWidth) : parseStatus cfg (.ok cmd payload) = (.usb, 0) := by
  obtain h | h := h
  · exact if_pos h
  · simp [parseStatus, h, fallbackStatus]

theorem parseStatus_of_fields {id : Byte} {before freq after : List Byte}
    (hid : payload[cfg.statusModeOffset]? = some id) (hpayload : payload = before ++ freq ++ after)
    (hbefore : before.length = cfg.statusFreqOffset) (hfreq : freq.length = cfg.statusFreqWidth) :
    parseStatus cfg (.ok cmd payload) = (modeOfId cfg id.toNat, beNat freq) := by
  have hmode : ¬payload.length ≤ cfg.statusModeOffset := by
    have := (List.getElem?_eq_some_iff.mp hid).1
    omega
  have hwidth : ¬payload.length < cfg.statusFreqOffset + cfg.statusFreqWidth := by
    rw [hpayload, List.length_append, List.length_append]
    omega
  have hfield : (payload.drop cfg.statusFreqOffset).take cfg.statusFreqWidth = freq := by
    rw [hpayload, List.append_assoc, ← hbefore, ← hfreq, List.drop_left, List.take_left]
  simp [parseStatus, hmode, hwidth, hfield, List.getD_eq_getElem?_getD, hid]

end

/-- Settles O39, by the two outcomes of the parse. -/
theorem replyParsesOrFallsBack : Obligations.ReplyParsesOrFallsBack := by
  refine fun cfg reply => ⟨fun cause h => by rw [h]; rfl, fun cmd payload h => ?_⟩
  rw [h]
  refine ⟨parseStatus_of_short, fun id before freq after hid hpayload hbefore hfreq => ?_⟩
  rw [parseStatus_of_fields hid hpayload hbefore hfreq]
  exact ⟨rfl, beNat_eq_sum freq⟩

end Sys2Proof.Machine
end

section
/-! The mode lookups (43_command_frames.md R167 to R169) of a `MODE_ID` table. -/

namespace Sys2Proof

theorem Mode.mem_listing (m : Mode) : m ∈ Mode.listing := by cases m <;> decide

/-- Nine different modes are all the modes. -/
theorem Mode.mem_of_nodup {l : List Mode} (hl : l.Nodup) (hlen : l.length = 9) (m : Mode) : m ∈ l := by
  have hsub : List.Subperm l Mode.listing := hl.subperm fun a _ => a.mem_listing
  exact (hsub.perm_of_length_le (by simp [hlen, Mode.listing])).mem_iff.mpr m.mem_listing

theorem Config.wellFormed_iff {cfg : Config} :
    cfg.wellFormed = true ↔ cfg.modes.length = 9 ∧ cfg.modes.Nodup ∧ cfg.modes.head? = some .usb := by
  simp [Config.wellFormed, and_assoc]

end Sys2Proof

namespace Sys2Proof.Machine

theorem firstIndex_eq_findIdx? {α : Type} (p : α → Bool) (l : List α) : firstIndex p l = l.findIdx? p := by
  induction l with
  | nil => rfl
  | cons a l ih => rw [firstIndex, ih, List.findIdx?_cons]

/-- In a list without repetition an element's first index is the index it stands at. -/
theorem firstIndex_of_nodup {α : Type} [DecidableEq α] {l : List α} {i : Nat} {a : α} (hl : l.Nodup)
    (h : l[i]? = some a) : firstIndex (fun x => decide (x = a)) l = some i := by
  obtain ⟨hi, rfl⟩ := List.getElem?_eq_some_iff.mp h
  rw [firstIndex_eq_findIdx?, List.findIdx?_eq_some_iff_getElem]
  refine ⟨hi, by simp, fun j hj => ?_⟩
  simpa [hl.getElem_inj_iff] using Nat.ne_of_lt hj

/-- This hardware's table tells the names apart. -/
theorem modeName_injective : Function.Injective modeName :=
  Function.LeftInverse.injective (g := fun name => modeOfId Config.hw (modeNameToId Config.hw name))
    fun m => by cases m <;> rfl

theorem modeName_map_upperCase (m : Mode) : (modeName m).map upperCase = modeName m := by cases m <;> rfl

section
variable {cfg : Config} {id : Nat} {m : Mode}

/-- Looking a mode up by its name is looking it up: names are different and in upper case. -/
theorem modeNameToId_modeName (cfg : Config) (m : Mode) : modeNameToId cfg (modeName m) = modeIdOf cfg m := by
  simp only [modeNameToId, modeIdOf, modeName_map_upperCase, modeName_injective.eq_iff]

theorem modeNameToId_of_unknown {name : List Byte} (h : ∀ m : Mode, modeName m ≠ name.map upperCase) :
    modeNameToId cfg name = 0 := by
  have hnone : firstIndex (fun x => decide (modeName x = name.map upperCase)) cfg.modes = none := by
    simp [firstIndex_eq_findIdx?, h]
  rw [modeNameToId, hnone, Option.getD_none]

theorem modeOfId_of_getElem? (h : cfg.modes[id]? = some m) : modeOfId cfg id = m := by
  rw [modeOfId, h, Option.getD_some]

theorem modeIdOf_of_getElem? (hmodes : cfg.modes.Nodup) (h : cfg.modes[id]? = some m) : modeIdOf cfg m = id := by
  rw [modeIdOf, firstIndex_of_nodup hmodes h, Option.getD_some]

end

/-- Settles O40: the table holds each mode once, so the index a mode is found at is the one it is read from. -/
theorem modeLookupsAreInverse : Obligations.ModeLookupsAreInverse := by
  intro cfg hcfg
  obtain ⟨hlen, hnodup, husb⟩ := Config.wellFormed_iff.mp hcfg
  have hrow : ∀ (id : Nat) (m : Mode), cfg.modes[id]? = some m →
      id < 9 ∧ modeOfId cfg id = m ∧ modeIdOf cfg m = id ∧ modeNameToId cfg (modeName m) = id := by
    intro id m h
    have hid := modeIdOf_of_getElem? hnodup h
    exact ⟨hlen ▸ (List.getElem?_eq_some_iff.mp h).1, modeOfId_of_getElem? h, hid,
      (modeNameToId_modeName cfg m).trans hid⟩
  have hall : ∀ id, id < 9 → ∃ m : Mode, cfg.modes[id]? = some m := fun id h =>
    ⟨_, List.getElem?_eq_getElem (hlen ▸ h)⟩
  refine ⟨hrow, hall, by rwa [← List.head?_eq_getElem?], fun id h => ?_, fun m => ?_, fun a b h => ?_,
    fun name => modeNameToId_of_unknown, fun id h => ?_⟩
  · obtain ⟨m, hm⟩ := hall id h
    obtain ⟨-, hmode, -, hname⟩ := hrow id m hm
    rw [hmode, hname]
  · obtain ⟨id, hm⟩ := List.mem_iff_getElem?.mp (m.mem_of_nodup hnodup hlen)
    obtain ⟨hid, hmode, hidOf, -⟩ := hrow id m hm
    rw [hidOf]
    exact ⟨hmode, hid⟩
  · rw [modeNameToId, h, modeNameToId]
  · rw [modeOfId, List.getElem?_eq_none (hlen.trans_le h), Option.getD_none]

end Sys2Proof.Machine
end

section
/-! STATUS (43_command_frames.md R164, R165): the query, and the reply's bytes from the return of the read to the verdict. -/

namespace Sys2Proof.Machine

/-- What a STATUS answers whose read returned these bytes. -/
def replyAnswer (cfg : Config) (buf : List Byte) : Ret :=
  .status (parseStatus cfg (decodeFrame cfg.crcReflect buf)).1 (parseStatus cfg (decodeFrame cfg.crcReflect buf)).2

section
variable {s : State} {bs : List Byte}

/-- A failed read ends the exchange (60_exceptions.md R193). -/
theorem advance_of_reading_fault (hx : s.exchange = .reading) (hf : s.readFault = true) :
    advance s = .next { s with readFault := false, exchange := .free, ret := .channelIOError } := by
  obtain ⟨-, e⟩ | ⟨hworks, -⟩ := readReturns_cases s
  · simp only [advance, hx]
    exact e
  · simp [hf] at hworks

/-- The pushes of the bytes the read returned: they leave `RX`, and FDEC stands as they say. -/
theorem exchangeSteps_pushing {buf rest : List Byte} (hx : s.exchange = .pushing buf.length) (hrx : s.rx = buf ++ rest)
    (hd : s.dec.pushed s.reflect bs) :
    ∃ d ret, exchangeSteps buf.length s = .next { s with dec := d, rx := rest, exchange := .pushing 0, ret := ret } ∧
      d.pushed s.reflect (bs ++ buf) := by
  induction buf generalizing s bs with
  | nil =>
    obtain rfl : s.rx = rest := hrx
    refine ⟨s.dec, s.ret, ?_, by rwa [List.append_nil]⟩
    rw [List.length_nil] at hx
    rw [← hx]
    rfl
  | cons b buf ih =>
    obtain ⟨d, hpush⟩ := fdecPush_ok hd b
    have hadv := advance_of_pushing_byte hx hrx (exec_decPush_of_fdecPush hpush)
    obtain ⟨d', ret, hrun, hd'⟩ :=
      ih (s := { s with dec := d, rx := s.rx.tail, ret := .nothing, exchange := .pushing buf.length }) rfl
        (by rw [hrx]; rfl) (fdecPush_pushed hd hpush)
    refine ⟨d', ret, ?_, by rwa [List.append_assoc] at hd'⟩
    rw [List.length_cons, exchangeSteps_succ, hadv, andThen_next]
    exact hrun

/-- DEC.END and DEC.RESULT after the last push: the answer is what the bytes pushed parse to, and the gate is free. -/
theorem exchangeSteps_verdict (hx : s.exchange = .pushing 0) (hd : s.dec.pushed s.reflect bs) :
    exchangeSteps 2 s =
      .next { s with dec := fdecEnd s.dec, exchange := .free, ret := replyAnswer s.cfg bs } := by
  have hend := advance_of_pushing_end hx (.inl rfl) (exec_decEnd s)
  have hresult := advance_of_result_decoded
    (s := { s with dec := fdecEnd s.dec, ret := .nothing, exchange := .result }) rfl
    (exec_decResult_of_fdecResult hd.fdecResult_fdecEnd) rfl
  rw [exchangeSteps_succ, hend, andThen_next]
  exact congrArg (Result.andThen · (exchangeSteps 0)) hresult

/-- From a working read to the answer: the first `RX_WINDOW` bytes of `RX` are taken, one a step, and parsed. -/
theorem exchangeSteps_reading {cfg : Config} {waiting : List Byte} (hx : s.exchange = .reading)
    (hf : s.readFault = false) (hcfg : s.cfg = cfg) (hrx : s.rx = waiting) :
    ∃ d, exchangeSteps ((waiting.take cfg.rxWindow).length + 3) s = .next { s with
        dec := d, rx := waiting.drop cfg.rxWindow, exchange := .free,
        ret := replyAnswer cfg (waiting.take cfg.rxWindow) } ∧
      (d.state = .ok ∨ d.state = .err) := by
  subst hcfg hrx
  have hread := advance_of_reading hx hf (exec_decStart s)
  rw [← List.length_take] at hread
  obtain ⟨d, ret, hpush, hd⟩ := exchangeSteps_pushing
    (s := { s with
      dec := fdecStart s.dec, ret := .nothing, exchange := .pushing (s.rx.take s.cfg.rxWindow).length })
    rfl (List.take_append_drop ..).symm (fdecStart_pushed s.reflect s.dec)
  rw [List.nil_append] at hd
  have hverdict := exchangeSteps_verdict
    (s := { s with dec := d, rx := s.rx.drop s.cfg.rxWindow, exchange := .pushing 0, ret := ret }) rfl hd
  refine ⟨fdecEnd d, ?_, fdecEnd_verdict d⟩
  rw [exchangeSteps_succ, hread, andThen_next, exchangeSteps_add _ 2]
  exact (congrArg (Result.andThen · (exchangeSteps 2)) hpush).trans hverdict

end

/-- Settles O38: the query is a frame of its own, and the reply is read from where it left the state. -/
theorem statusQueriesAndParses : Obligations.StatusQueriesAndParses := by
  intro s hs
  obtain ⟨u, hstart, hstarted, hu⟩ :=
    startExchange_of_idle (cmd := opStatus) (payload := []) true hs (Nat.zero_le maxPayload)
  obtain ⟨t, hall, hemitted, -, hstatus, hsame⟩ := hu.exchangeSteps_all
  have htx := hemitted.tx_eq
  rw [frameBytes_take_of_le (Nat.le_refl _)] at htx
  have hidle : t.enc.state = .idle := hemitted.idle_iff.mpr (Nat.le_refl _)
  refine ⟨u, t.setExchange .reading, hstart, hstarted, hall, htx, rfl, hidle, hstatus, hsame, fun hf reply => ?_,
    ?_⟩
  · obtain ⟨hcrc, -, -, hcfg, hin, -, hpartial⟩ := hsame
    obtain ⟨d, hread, hverdict⟩ :=
      exchangeSteps_reading (s := { t.setExchange .reading with rx := s.rx ++ reply }) rfl hf hcfg rfl
    exact ⟨_, hread, rfl, rfl, hverdict, rfl, rfl, rfl, hcrc, hcfg, hin, hf, hpartial⟩
  · rw [exchangeSteps_succ, advance_of_reading_fault rfl rfl]
    rfl

end Sys2Proof.Machine
end

section
/-! RESET (70_reset_and_hazards.md R220): one answer in every state, the mark of an abandoned frame, and a second RESET. -/

namespace Sys2Proof.Machine

/-- RESET in any state: the mark of an abandoned frame is all that its answer takes from FENC. -/
theorem exec_reset (s : State) :
    exec .reset s = .next { s with
      crc := 0xFFFF, enc := Fenc.reset, dec := Fdec.reset, exchange := .free,
      partialTx := s.partialTx || midFrame s.enc, ret := .nothing } := rfl

theorem midFrame_reset : midFrame Fenc.reset = false := rfl

/-- FENC is in the middle of a frame exactly when it is busy and past the frame's start. -/
theorem midFrame_iff {e : Fenc} : midFrame e = true ↔ e.state ≠ .idle ∧ (e.state = .pre → e.idx ≠ 0) := by
  refine ⟨fun h => ?_, fun ⟨hbusy, hfirst⟩ => midFrame_eq_true hbusy hfirst⟩
  have hprogress : e.progress ≠ 0 := of_decide_eq_true h
  refine ⟨fun hidle => hprogress (Fenc.progress_of_idle hidle), fun hpre hidx => hprogress ?_⟩
  simp [Fenc.progress, hpre, hidx]

/-- A second RESET finds FENC idle, so it marks nothing more. -/
theorem runOps_reset_reset (s : State) : runOps [.reset, .reset] s = runOps [.reset] s := by
  simp only [runOps_cons, runOps_nil, exec_reset, andThen_next, midFrame_reset, Bool.or_false]

/-- Settles O2: the mark RESET leaves is the old one, or that it found FENC in the middle of a frame. -/
theorem resetWritesEveryRegister : Obligations.ResetWritesEveryRegister := fun s =>
  ⟨⟨s.partialTx || midFrame s.enc, exec_reset s, by rw [Bool.or_eq_true, midFrame_iff]⟩, runOps_reset_reset s⟩

end Sys2Proof.Machine
end

section
/-! A step as its waiting input gives it (70_reset_and_hazards.md R221, R232): an operation and a listing that decodes are
requested alike, and a command, which every such listing is, waits while an exchange holds the gate (20_memory.md R52). -/

namespace Sys2Proof.Machine

/-- An operation needs the gate exactly when it is a command operation. -/
theorem needsGate_eq_true_iff {i : Instr} : needsGate i = true ↔ commandOf i ≠ none := Option.isSome_iff_ne_none

theorem needsGate_eq_false_iff {i : Instr} : needsGate i = false ↔ commandOf i = none :=
  Option.isSome_eq_false_iff.trans Option.isNone_iff_eq_none

/-- A listing that decodes is the row of some command and payload. -/
theorem eq_classify_of_decodeListing {bytes left : List Byte} {i : Instr} (h : decodeListing bytes = .ok (i, left)) :
    ∃ cmd payload, i = classify cmd payload := by
  unfold decodeListing at h
  split_ifs at h
  split at h
  · cases h
  · split_ifs at h
    split at h
    · next cmd payload _ => cases h; exact ⟨cmd, payload, rfl⟩
    · cases h

/-- Every listing that decodes is a command (30_encoding.md R76), so it needs the gate. -/
theorem needsGate_of_decodeListing {bytes left : List Byte} {i : Instr} (h : decodeListing bytes = .ok (i, left)) :
    needsGate i = true := by
  obtain ⟨cmd, payload, rfl⟩ := eq_classify_of_decodeListing h
  rw [needsGate, commandOf_classify, Option.isSome_some]

section
variable {s : State} {rest : List Input}

theorem requested_of_free {i : Instr} (hx : s.exchange = .free) :
    requested i rest s = .run i (s.setInputs rest) := by
  simp [requested, State.gateHeld, hx]

theorem requested_of_held {i : Instr} (hg : needsGate i = true) (hx : s.exchange ≠ .free) :
    requested i rest s = .exchange s := by
  simp [requested, State.gateHeld, hg, hx]

theorem step_of_op_held {i : Instr} (h : s.inputs = .op i :: rest) (hg : needsGate i = true) (hx : s.exchange ≠ .free) :
    step s = advance s := by
  simp only [step, nextMove, h, requested_of_held hg hx]

theorem step_of_listing {bytes left : List Byte} {i : Instr} (h : s.inputs = .listing bytes :: rest)
    (hd : decodeListing bytes = .ok (i, left)) (hx : s.exchange = .free) : step s = exec i (s.setInputs rest) := by
  simp only [step, nextMove, h, hd, requested_of_free hx]

theorem step_of_listing_held {bytes left : List Byte} {i : Instr} (h : s.inputs = .listing bytes :: rest)
    (hd : decodeListing bytes = .ok (i, left)) (hx : s.exchange ≠ .free) : step s = advance s := by
  simp only [step, nextMove, h, hd, requested_of_held (needsGate_of_decodeListing hd) hx]

theorem step_of_bad_listing {bytes : List Byte} {why : Cause} (h : s.inputs = .listing bytes :: rest)
    (hd : decodeListing bytes = .error why) : step s = .refused (.badListing why) := by
  simp only [step, nextMove, h, hd]

theorem step_of_no_input (h : s.inputs = []) : step s = advance s := by
  simp only [step, nextMove, h]

end

/-- Settles O46: the step of each kind of waiting input. -/
theorem stepRunsTheDecodedInstruction : Obligations.StepRunsTheDecodedInstruction := by
  intro s rest
  refine ⟨fun i h => ⟨fun hg => ?_, fun hc hx => ?_⟩,
    fun bytes left i h hd => ⟨step_of_listing h hd, step_of_listing_held h hd⟩,
    fun bytes why => step_of_bad_listing, fun b => step_of_device, step_of_channelReadFault, step_of_turn,
    step_of_no_input, fun h hx => ?_⟩
  · exact step_of_op h (hg.imp_left needsGate_eq_false_iff.mpr)
  · exact step_of_op_held h (needsGate_eq_true_iff.mpr hc) hx
  · exact (step_of_no_input h).trans (advance_of_free hx)

end Sys2Proof.Machine
end
